-- ==== Sys2Proof/Word.lean ====
section
/-! DEFINITION. The bit-vector words of the engine and the 24-bit pixel (spec/00_scope.md R4, spec/40 R100). -/

namespace Sys2Proof

/-- A byte of a file; also one 8-bit channel, count or palette index (R4, R7). -/
abbrev Byte := BitVec 8

/-- A 16-bit header field or dimension register (R4). -/
abbrev Half := BitVec 16

/-- A word of the host's register port (R11). -/
abbrev Word := BitVec 32

/-- A pixel: three 8-bit channels and nothing else (R100). Equality is equality of all three. -/
structure Pixel where
  r : Byte
  g : Byte
  b : Byte
  deriving DecidableEq, Repr, Inhabited

/-- The seed of the previous pixel, `(0, 0, 0)` (R18). -/
def Pixel.black : Pixel := ⟨0, 0, 0⟩

end Sys2Proof
end

