-- ==== Sys2Proof/Syntax.lean ====
section
/-! DEFINITION. The instructions (one constructor per row of spec/opcode_table.json), the record kinds a pixel stream
can have (spec/30 R64) and the contexts in which bytes are decoded. -/

namespace Sys2Proof

/-- The headers, records, reserved first bytes and commands of the engine. Signed operands are the deltas themselves,
as in the listing syntax of spec/30 R90. -/
inductive Instr where
  /-- Header of versions 1, 2 and 4 (R61); its `header_len` is the constant 12. -/
  | hdr12 (version : Byte) (width height : Half)
  /-- Fixed part of the version 3 header (R62). -/
  | hdr3 (headerLen width height : Half) (depth rle : Byte)
  /-- One palette entry of a version 3 header (R62). -/
  | pal (r g b : Byte)
  /-- Raw pixel (R65). -/
  | pix (r g b : Byte)
  /-- Run of `n` equal pixels (R66). -/
  | run (n r g b : Byte)
  /-- Palette index (R67). -/
  | idx (i : Byte)
  /-- Run of `n` equal palette indices (R68). -/
  | runi (n i : Byte)
  /-- Eight 1-bit indices (R69). -/
  | pack1 (i0 i1 i2 i3 i4 i5 i6 i7 : BitVec 1)
  /-- Four 2-bit indices (R69). -/
  | pack2 (i0 i1 i2 i3 : BitVec 2)
  /-- Two 4-bit indices (R69). -/
  | pack4 (i0 i1 : BitVec 4)
  /-- One-byte delta block (R80). -/
  | small (dr dg db : Int)
  /-- Two-byte delta block (R81). -/
  | inter (dr dg db : Int)
  /-- Three-byte delta block, primary channel R (R82). -/
  | bigr (dr dg db : Int)
  /-- Three-byte delta block, primary channel G (R82). -/
  | bigg (dr dg db : Int)
  /-- Three-byte delta block, primary channel B (R82). -/
  | bigb (dr dg db : Int)
  /-- Absolute pixel block (R83). -/
  | new (r g b : Byte)
  /-- A first byte of version 4 that selects no block (R85). -/
  | reservedV4 (b0 : Byte)
  /-- Write of 0 to `CMD` (R12). -/
  | nop
  /-- Write of 1 to `CMD` (R12). -/
  | enc
  /-- Write of 2 to `CMD` (R12). -/
  | dec
  /-- Write of 3 to `CMD` (R12). -/
  | clr
  deriving DecidableEq, Repr

/-- The kind of record a pixel stream is made of (R64). `delta` stands for the six kinds of version 4. -/
inductive RecordKind where
  | pix | run | idx | runi | pack1 | pack2 | pack4 | delta
  deriving DecidableEq, Repr

/-- Where the bytes to decode stand: the `CMD` field, a file's offset 0, a version 3 palette, or a pixel stream. Only
version 4 records carry a tag, so the context selects the row of the opcode table (R60). -/
inductive Ctx where
  | cmd
  | header
  | palette
  | stream (kind : RecordKind)
  deriving DecidableEq, Repr

/-- Why a byte sequence is no instruction of its context. -/
inductive Reject where
  /-- fewer bytes than the record needs (R47) -/
  | short
  /-- the first five bytes are not the magic tag (R210) -/
  | badMagic
  /-- the version byte is not 1, 2, 3 or 4 (R211) -/
  | badVersion
  /-- `header_len` is not 12 in version 1, 2 or 4 (R213) -/
  | badHeaderLen
  deriving DecidableEq, Repr

end Sys2Proof
end

