-- ==== Sys2Proof/WellFormed.lean ====
section
/-! DEFINITION. Which instruction terms have an encoding that the format does not reserve (spec/30 R70, R86). -/

namespace Sys2Proof

/-- `lo <= v <= hi`, both inclusive (R7). -/
abbrev within (v lo hi : Int) : Prop := lo ≤ v ∧ v ≤ hi

/-- The legal version 3 header fields: depth and flag (R214) and the header length they allow (R215). -/
abbrev legalHdr3 (headerLen : Nat) (depth rle : Byte) : Prop :=
  (depth = 1 ∨ depth = 2 ∨ depth = 4 ∨ depth = 8 ∨ depth = 24) ∧ (rle = 0 ∨ rle = 1) ∧
  ¬ ((depth = 1 ∨ depth = 2 ∨ depth = 4) ∧ rle = 1) ∧
  (if depth = 24 then headerLen = 14
   else 14 ≤ headerLen ∧ (headerLen - 14) % 3 = 0 ∧ (headerLen - 14) / 3 ≤ 2 ^ depth.toNat)

/-- The operand ranges of the deltas (R70) and the reserved field values (R86) that one record shows by itself. Whether a
palette index names an entry depends on the palette in force and is tested by the meaning, not here. -/
def isWellFormed : Instr → Bool
  | .hdr12 v _ _ => decide (v = 1 ∨ v = 2 ∨ v = 4)
  | .hdr3 hl _ _ d f => decide (legalHdr3 hl.toNat d f)
  | .pal _ _ _ => true
  | .pix _ _ _ => true
  | .run n _ _ _ => decide (n ≠ 0)
  | .idx _ => true
  | .runi n _ => decide (n ≠ 0)
  | .pack1 _ _ _ _ _ _ _ _ => true
  | .pack2 _ _ _ _ => true
  | .pack4 _ _ => true
  | .small dr dg db => decide (within dr (-2) 1 ∧ within dg (-2) 1 ∧ within db (-2) 1)
  | .inter dr dg db => decide (within dg (-32) 31 ∧ within (dr - dg) (-8) 7 ∧ within (db - dg) (-8) 7)
  | .bigr dr dg db => decide (within dr (-128) 127 ∧ within (dg - dr) (-32) 31 ∧ within (db - dr) (-32) 31)
  | .bigg dr dg db => decide (within dg (-128) 127 ∧ within (dr - dg) (-32) 31 ∧ within (db - dg) (-32) 31)
  | .bigb dr dg db => decide (within db (-128) 127 ∧ within (dr - db) (-32) 31 ∧ within (dg - db) (-32) 31)
  | .new _ _ _ => true
  | .reservedV4 b0 => decide (0xB0 ≤ b0.toNat ∧ b0.toNat ≤ 0xFE)
  | .nop => true
  | .enc => true
  | .dec => true
  | .clr => true

/-- The instruction has an encoding that the format does not reserve. -/
abbrev WellFormed (i : Instr) : Prop := isWellFormed i = true

end Sys2Proof
end

