-- ==== Sys2Proof/Decode.lean ====
section
/-! DEFINITION. The decoder, total on any bytes, and the encoder, from the same layouts (spec/30 R61 to R85). Field
extraction, bias removal and byte order are here and nowhere else. -/

namespace Sys2Proof

/-! ### Fields -/

/-- `b[lo+w-1 : lo]` as a natural number (R6). -/
def field (b : Byte) (lo w : Nat) : Nat := b.toNat / 2 ^ lo % 2 ^ w

/-- `LE16`: the byte at the lower offset is the low half (R7, R41, R71). -/
def le16 (lo hi : Byte) : Half := BitVec.ofNat 16 (lo.toNat + 256 * hi.toNat)

/-- `le16(v)`, the two bytes of a 16-bit field, low byte first (R7, R41). -/
def le16Bytes (v : Half) : List Byte := [BitVec.ofNat 8 (v.toNat % 256), BitVec.ofNat 8 (v.toNat / 256)]

/-- The five magic bytes "ULBMP" (R49, R61). -/
def magic : List Byte := [0x55, 0x4C, 0x42, 0x4D, 0x50]

/-- `v = field - B`: a signed field is stored with a bias (R70). -/
def unbias (f : Nat) (B : Int) : Int := (f : Int) - B

/-- `field = v + B` (R70). -/
def bias (v B : Int) : Nat := (v + B).toNat

/-! ### Decoder -/

/-- The four values of the `CMD` field (R11, R12). -/
def decodeCmd (op : BitVec 2) : Instr :=
  if op = 1 then .enc else if op = 2 then .dec else if op = 3 then .clr else .nop

/-- The header formats, told apart by the version byte (R60, R61, R62). The tests are those of R210 to R213; the
version 3 fields are examined by the meaning of `HDR3`. -/
def decodeHeader : List Byte → Except Reject (Instr × List Byte)
  | m0 :: m1 :: m2 :: m3 :: m4 :: v :: t =>
    if [m0, m1, m2, m3, m4] ≠ magic then .error .badMagic
    else if v = 1 ∨ v = 2 ∨ v = 4 then
      match t with
      | l0 :: l1 :: w0 :: w1 :: h0 :: h1 :: rest =>
        if le16 l0 l1 ≠ 12 then .error .badHeaderLen
        else .ok (.hdr12 v (le16 w0 w1) (le16 h0 h1), rest)
      | _ => .error .short
    else if v = 3 then
      match t with
      | l0 :: l1 :: w0 :: w1 :: h0 :: h1 :: d :: f :: rest =>
        .ok (.hdr3 (le16 l0 l1) (le16 w0 w1) (le16 h0 h1) d f, rest)
      | _ => .error .short
    else .error .badVersion
  | _ => .error .short

/-- The primary field of a `BIGx` block (R72). -/
def bigP (b0 b1 : Byte) : Nat := field b0 0 4 * 2 ^ 4 + field b1 4 4

/-- The first secondary field of a `BIGx` block (R72). -/
def bigS1 (b1 b2 : Byte) : Nat := field b1 0 4 * 2 ^ 2 + field b2 6 2

/-- The second secondary field of a `BIGx` block (R72). -/
def bigS2 (b2 : Byte) : Nat := field b2 0 6

/-- A version 4 block, selected by its first byte in the order of R84; the rest of the first bytes are reserved (R85). -/
def decodeDelta : List Byte → Except Reject (Instr × List Byte)
  | [] => .error .short
  | b0 :: t =>
    if b0 = 0xFF then
      match t with
      | r :: g :: b :: rest => .ok (.new r g b, rest)
      | _ => .error .short
    else if field b0 6 2 = 0 then
      .ok (.small (unbias (field b0 4 2) 2) (unbias (field b0 2 2) 2) (unbias (field b0 0 2) 2), t)
    else if field b0 6 2 = 1 then
      match t with
      | b1 :: rest =>
        let dg := unbias (field b0 0 6) 32
        .ok (.inter (dg + unbias (field b1 4 4) 8) dg (dg + unbias (field b1 0 4) 8), rest)
      | _ => .error .short
    else if field b0 4 4 = 8 then
      match t with
      | b1 :: b2 :: rest =>
        let dr := unbias (bigP b0 b1) 128
        .ok (.bigr dr (dr + unbias (bigS1 b1 b2) 32) (dr + unbias (bigS2 b2) 32), rest)
      | _ => .error .short
    else if field b0 4 4 = 9 then
      match t with
      | b1 :: b2 :: rest =>
        let dg := unbias (bigP b0 b1) 128
        .ok (.bigg (dg + unbias (bigS1 b1 b2) 32) dg (dg + unbias (bigS2 b2) 32), rest)
      | _ => .error .short
    else if field b0 4 4 = 10 then
      match t with
      | b1 :: b2 :: rest =>
        let db := unbias (bigP b0 b1) 128
        .ok (.bigb (db + unbias (bigS1 b1 b2) 32) (db + unbias (bigS2 b2) 32) db, rest)
      | _ => .error .short
    else .ok (.reservedV4 b0, t)

/-- Lane `j` of a packed byte at depth `d` (R46, R69, R124): the first index in the most significant bits. -/
def lane (b : Byte) (d j : Nat) : BitVec d := BitVec.ofNat d (field b (8 - d * (j + 1)) d)

/-- A record of a pixel stream; the kind is fixed by the header (R64). -/
def decodeRecord (k : RecordKind) (bs : List Byte) : Except Reject (Instr × List Byte) :=
  match k, bs with
  | .pix, r :: g :: b :: rest => .ok (.pix r g b, rest)
  | .run, n :: r :: g :: b :: rest => .ok (.run n r g b, rest)
  | .idx, i :: rest => .ok (.idx i, rest)
  | .runi, n :: i :: rest => .ok (.runi n i, rest)
  | .pack1, b :: rest =>
    .ok (.pack1 (lane b 1 0) (lane b 1 1) (lane b 1 2) (lane b 1 3) (lane b 1 4) (lane b 1 5) (lane b 1 6) (lane b 1 7), rest)
  | .pack2, b :: rest => .ok (.pack2 (lane b 2 0) (lane b 2 1) (lane b 2 2) (lane b 2 3), rest)
  | .pack4, b :: rest => .ok (.pack4 (lane b 4 0) (lane b 4 1), rest)
  | .delta, _ => decodeDelta bs
  | _, _ => .error .short

/-- The instruction that `bs` begins with in context `c`, and the bytes after it. -/
def decode (c : Ctx) (bs : List Byte) : Except Reject (Instr × List Byte) :=
  match c, bs with
  | .cmd, b :: rest => .ok (decodeCmd (b.extractLsb' 0 2), rest)
  | .cmd, [] => .error .short
  | .header, _ => decodeHeader bs
  | .palette, r :: g :: b :: rest => .ok (.pal r g b, rest)
  | .palette, _ => .error .short
  | .stream k, _ => decodeRecord k bs

/-- How many bytes must be seen before a record's length is known: the magic and version bytes of a header (R210), the
first byte of a version 4 block (R84), the whole record elsewhere (R64). -/
def needBytes : Ctx → Nat
  | .cmd => 1
  | .header => 6
  | .palette => 3
  | .stream .pix => 3
  | .stream .run => 4
  | .stream .idx => 1
  | .stream .runi => 2
  | .stream .pack1 => 1
  | .stream .pack2 => 1
  | .stream .pack4 => 1
  | .stream .delta => 1

/-- The length of the version 4 block whose first byte is `b0` (R84); a reserved byte stands alone (R148). -/
def deltaLen (b0 : Byte) : Nat :=
  if b0 = 0xFF then 4
  else if field b0 6 2 = 0 then 1
  else if field b0 6 2 = 1 then 2
  else if field b0 4 4 = 8 ∨ field b0 4 4 = 9 ∨ field b0 4 4 = 10 then 3
  else 1

/-- The bytes of the header up to the palette (R61, R62); no more than the tested bytes when the magic or the version
is refused. -/
def headerFixedLen : List Byte → Nat
  | m0 :: m1 :: m2 :: m3 :: m4 :: v :: _ =>
    if [m0, m1, m2, m3, m4] ≠ magic then 6
    else if v = 1 ∨ v = 2 ∨ v = 4 then 12
    else if v = 3 then 14
    else 6
  | _ => 6

/-- The length of the record that begins with `bs`, of which at least `needBytes c` are given. -/
def recordLen (c : Ctx) (bs : List Byte) : Nat :=
  match c with
  | .header => headerFixedLen bs
  | .stream .delta => deltaLen (bs.headD 0)
  | c => needBytes c

/-! ### Encoder -/

/-- One byte from a number below 256. -/
def byteOf (n : Nat) : Byte := BitVec.ofNat 8 n

/-- The three bytes of a `BIGx` block from its tag and fields (R72, R82). The fields do not overlap, so the spec's `|`
is `+`. -/
def bigBytes (tag p s1 s2 : Nat) : List Byte :=
  [byteOf (tag * 2 ^ 4 + p / 2 ^ 4), byteOf (p % 2 ^ 4 * 2 ^ 4 + s1 / 2 ^ 2), byteOf (s1 % 2 ^ 2 * 2 ^ 6 + s2)]

/-- A packed byte: lane `j` of `k` shifted left by `d * (k-1-j)`, missing lanes contributing nothing (R120). -/
def packByte (d : Nat) (lanes : List Nat) : Nat :=
  (lanes.zipIdx.map fun x => x.1 * 2 ^ (8 - d * (x.2 + 1))).sum

/-- The bytes of an instruction (R61 to R83). A command is the byte whose low two bits are the `CMD` field (R12). -/
def encode : Instr → List Byte
  | .hdr12 v w h => magic ++ [v] ++ le16Bytes 12 ++ le16Bytes w ++ le16Bytes h
  | .hdr3 hl w h d f => magic ++ [3] ++ le16Bytes hl ++ le16Bytes w ++ le16Bytes h ++ [d, f]
  | .pal r g b => [r, g, b]
  | .pix r g b => [r, g, b]
  | .run n r g b => [n, r, g, b]
  | .idx i => [i]
  | .runi n i => [n, i]
  | .pack1 a b c d e f g h =>
    [byteOf (packByte 1 [a.toNat, b.toNat, c.toNat, d.toNat, e.toNat, f.toNat, g.toNat, h.toNat])]
  | .pack2 a b c d => [byteOf (packByte 2 [a.toNat, b.toNat, c.toNat, d.toNat])]
  | .pack4 a b => [byteOf (packByte 4 [a.toNat, b.toNat])]
  | .small dr dg db => [byteOf (bias dr 2 * 2 ^ 4 + bias dg 2 * 2 ^ 2 + bias db 2)]
  | .inter dr dg db => [byteOf (0x40 + bias dg 32), byteOf (bias (dr - dg) 8 * 2 ^ 4 + bias (db - dg) 8)]
  | .bigr dr dg db => bigBytes 8 (bias dr 128) (bias (dg - dr) 32) (bias (db - dr) 32)
  | .bigg dr dg db => bigBytes 9 (bias dg 128) (bias (dr - dg) 32) (bias (db - dg) 32)
  | .bigb dr dg db => bigBytes 10 (bias db 128) (bias (dr - db) 32) (bias (dg - db) 32)
  | .new r g b => [0xFF, r, g, b]
  | .reservedV4 b0 => [b0]
  | .nop => [0]
  | .enc => [1]
  | .dec => [2]
  | .clr => [3]

/-- The context in which a row of the opcode table stands (its "context" entry). -/
def ctxOf : Instr → Ctx
  | .hdr12 _ _ _ => .header
  | .hdr3 _ _ _ _ _ => .header
  | .pal _ _ _ => .palette
  | .pix _ _ _ => .stream .pix
  | .run _ _ _ _ => .stream .run
  | .idx _ => .stream .idx
  | .runi _ _ => .stream .runi
  | .pack1 _ _ _ _ _ _ _ _ => .stream .pack1
  | .pack2 _ _ _ _ => .stream .pack2
  | .pack4 _ _ => .stream .pack4
  | .small _ _ _ => .stream .delta
  | .inter _ _ _ => .stream .delta
  | .bigr _ _ _ => .stream .delta
  | .bigg _ _ _ => .stream .delta
  | .bigb _ _ _ => .stream .delta
  | .new _ _ _ => .stream .delta
  | .reservedV4 _ => .stream .delta
  | .nop => .cmd
  | .enc => .cmd
  | .dec => .cmd
  | .clr => .cmd

/-! ### Words of the opcode table -/

/-- The bytes of a word of `n` bytes, byte 0 the most significant, as the table's match and mask number them
(spec/30, conventions; log 18). -/
def tableBytes : (n : Nat) → (w : Nat) → List Byte
  | 0, _ => []
  | n + 1, w => byteOf (w / 2 ^ (8 * n)) :: tableBytes n w

/-- The context a word of the table is read in. Records of versions 1, 2 and 3 have no tag, so their rows share their
words: the rows with fixed bits come first, then the longest-standing row of that length (log 18). -/
def tableCtx (nbytes w : Nat) : Ctx :=
  let b0 := (byteOf (w / 2 ^ (8 * (nbytes - 1)))).toNat
  if nbytes ≤ 1 then
    if w < 4 then .cmd else if b0 < 0x40 ∨ 0xB0 ≤ b0 ∧ b0 ≠ 0xFF then .stream .delta else .stream .idx
  else if nbytes = 2 then if 0x40 ≤ b0 ∧ b0 < 0x80 then .stream .delta else .stream .runi
  else if nbytes = 3 then if 0x80 ≤ b0 ∧ b0 < 0xB0 then .stream .delta else .stream .pix
  else if nbytes = 4 then if b0 = 0xFF then .stream .delta else .stream .run
  else .header

/-- The number of whole bytes of `nbits` bits, at least one. -/
def wholeBytes (nbits : Nat) : Nat := max 1 ((nbits + 7) / 8)

/-- The instruction the decoder reads from a word of the opcode table. -/
def decodeTableWord (nbits w : Nat) : Option Instr :=
  let n := wholeBytes nbits
  match decode (tableCtx n w) (tableBytes n w) with
  | .ok (i, _) => some i
  | .error _ => none

end Sys2Proof
end

