-- ==== Sys2Proof/Config.lean ====
section
/-! DEFINITION. What an implementation fixes and the values the spec leaves open (spec/93 U3, U4, U5; log 5).
Nothing can evaluate a free value: every statement about one holds for all of them. -/

namespace Sys2Proof

/-- The places that can come to hold an unspecified value. -/
inductive Site where
  /-- result registers (R262, U4) -/
  | version | depth | rle | width | height | outLen | hdrLen
  /-- working registers and cursors after a command (U3) -/
  | prev | runVal | runCnt | acc | rp | wp | pix
  /-- memory cells outside the result ranges (U4, U5) -/
  | obuf (a : Nat) | pmem (i : Nat) | pal (i : Nat)
  deriving DecidableEq, Repr

/-- The unspecified value that draw number `draw` leaves at `site`, `w` bits wide: no body, any value (log 5). -/
opaque Config.freeBits (w : Nat) (site : Site) (draw : Nat) : BitVec w

/-- What `OUT_LEN` holds after an `ENC` whose file has `fileLen` bytes, 2^32 or more, which 32 bits cannot hold. It depends
on nothing but the file, so that `ENC` stays a function of its inputs (R198; log 13). -/
opaque Config.longOutLen (fileLen : Nat) : BitVec 32

/-- The unspecified value of `PAL_SIZE`, kept within the register's legal values 0 to 256 (R11, R262). -/
opaque Config.freePalSize (draw : Nat) : Fin 257

/-- The unspecified value of `ACC_N`, kept within its range 0 to 8 (R20, U3). -/
opaque Config.freeAccN (draw : Nat) : Fin 9

end Sys2Proof
end

