-- ==== Sys2Proof/Machine/State.lean ====
section
/-! DEFINITION. The machine's state as plain data (spec/10_state.md), the reasons a step can stop, and the state after
reset (R27, R280). -/

namespace Sys2Proof.Machine

/-- A memory: the cells that hold a value, as (address, value) pairs with strictly rising addresses. A cell that is not
listed holds no value (R56, D28; log 8). -/
abbrev Memory (α : Type) := List (Nat × α)

/-- `STATUS.state` (R11, R13). -/
inductive Status where
  | idle | busy | done | error
  deriving DecidableEq, Repr

/-- The error kinds (R250). `indexOutOfBounds` is a bus answer only and never stands in `ERR.code`. -/
inductive ErrKind where
  | none | channelOutOfRange | pixelCountMismatch | indexOutOfBounds | formatError | paletteTooLarge | invalidConfig
  | bufferOverflow
  deriving DecidableEq, Repr

/-- The memories (R40). -/
inductive Space where
  | ibuf | obuf | pmem | pal
  deriving DecidableEq, Repr

/-- Working registers and cursors, hidden from the host (R18 to R21, R26). -/
structure Work where
  /-- `PREV`, the previous pixel of version 4 (R18) -/
  prev : Pixel
  /-- `RUN_VAL`; a palette index stands in its low 8 bits, the `b` channel (R19, log 7) -/
  runVal : Pixel
  /-- `RUN_CNT`; 0 means no run is open (R19) -/
  runCnt : BitVec 8
  /-- `ACC`, the Bit Packer's byte (R20) -/
  acc : BitVec 8
  /-- `ACC_N`, 0 to 8 (R20) -/
  accN : BitVec 4
  /-- `RP`, byte offset into `IBUF` (R21) -/
  rp : Nat
  /-- `WP`, byte offset into `OBUF` (R21) -/
  wp : Nat
  /-- `PIX`, pixel counter (R21) -/
  pix : Nat
  deriving DecidableEq, Repr

/-- The header a `DEC` has parsed (R217) with the record kind it selects (R220). -/
structure Hdr where
  version : BitVec 8
  headerLen : BitVec 16
  width : BitVec 16
  height : BitVec 16
  depth : BitVec 8
  rle : BitVec 8
  /-- the palette size `k` (R63) -/
  k : Nat
  kind : RecordKind
  deriving DecidableEq, Repr

/-- The command in progress and its phase: implied by R12, R180 and R220 (log 3). The kind of a stream is selected once
and does not change. -/
inductive Job where
  /-- no command runs -/
  | none
  /-- `DEC` at the header (R217) -/
  | decHeader
  /-- `DEC` at palette entry `i` (R216) -/
  | decPalette (h : Hdr) (i : Nat)
  /-- `DEC` in the pixel stream (R220) -/
  | decStream (h : Hdr)
  /-- `ENC` before its checks (R181, R196) -/
  | encStart
  /-- `ENC` in the palette scan, at pixel `i` (R108) -/
  | encPalette (kind : RecordKind) (i : Nat)
  /-- `ENC` before the fixed part of the header (R182, R183) -/
  | encHeader (kind : RecordKind)
  /-- `ENC` before palette entry `i` of the header (R183) -/
  | encPalOut (kind : RecordKind) (i : Nat)
  /-- `ENC` in the pixel stream -/
  | encStream (kind : RecordKind)
  deriving DecidableEq, Repr

/-- The capacities `IBUF_SIZE`, `OBUF_SIZE`, `PMEM_SIZE`; `none` is unbounded (R5, D25; log 4). -/
structure Caps where
  ibuf : Option Nat
  obuf : Option Nat
  pmem : Option Nat
  deriving DecidableEq, Repr

/-- One access of the host to the engine's port, or a moment in which the host makes none (R52, R53, R285; log 1). -/
inductive HostOp where
  /-- the host makes no access while the engine makes one step -/
  | tick
  /-- the host polls `STATUS` until it is not `BUSY`, and makes no other access meanwhile (R282) -/
  | wait
  /-- read of the register at a byte offset (R11) -/
  | readReg (off : Nat)
  /-- write of the register at a byte offset (R11) -/
  | writeReg (off : Nat) (v : Word)
  /-- read of an `IBUF` byte (R53) -/
  | readIbuf (a : Nat)
  /-- write of an `IBUF` byte (R53) -/
  | writeIbuf (a : Nat) (v : Byte)
  /-- read of an `OBUF` byte (R53) -/
  | readObuf (a : Nat)
  /-- read of a `PAL` entry (R53) -/
  | readPal (i : Nat)
  /-- `PixelRead(x, y)` (R52) -/
  | pixelRead (x y : Nat)
  /-- `PixelWrite(x, y, p)` (R52) -/
  | pixelWrite (x y : Nat) (p : Pixel)
  /-- the `rst` input is asserted and released (R280, R281) -/
  | rst
  deriving DecidableEq, Repr

/-- The answer to the last host access (log 2). -/
inductive Resp where
  /-- no access yet -/
  | none
  /-- a write was accepted -/
  | ack
  /-- register data -/
  | word (w : Word)
  /-- a byte of `IBUF` or `OBUF` -/
  | byte (b : Byte)
  /-- a pixel of `PMEM` or `PAL` -/
  | pixel (p : Pixel)
  /-- the bus error answer of the pixel port (R52, R253) -/
  | busError (e : ErrKind)
  deriving DecidableEq, Repr

/-- The whole state of one engine (R10) and of what drives it (R8). -/
structure State where
  /-- `STATUS.state` (R13) -/
  status : Status
  /-- `ERR.code` (R14) -/
  err : ErrKind
  /-- `VERSION` (R15) -/
  version : BitVec 8
  /-- `DEPTH` (R15) -/
  depth : BitVec 8
  /-- `RLE` (R15) -/
  rle : BitVec 1
  /-- `WIDTH` (R15) -/
  width : BitVec 16
  /-- `HEIGHT` (R15) -/
  height : BitVec 16
  /-- `IN_LEN` (R16) -/
  inLen : BitVec 32
  /-- `OUT_LEN` (R16) -/
  outLen : BitVec 32
  /-- `HDR_LEN` (R16) -/
  hdrLen : BitVec 16
  /-- `PAL_SIZE` (R16) -/
  palSize : BitVec 9
  /-- working registers and cursors (R18 to R21) -/
  work : Work
  /-- the palette RAM `PAL` (R24) -/
  pal : Memory Pixel
  /-- the input buffer `IBUF` (R25) -/
  ibuf : Memory Byte
  /-- the output buffer `OBUF` (R25) -/
  obuf : Memory Byte
  /-- the pixel memory `PMEM` (R25) -/
  pmem : Memory Pixel
  /-- the command in progress (log 3) -/
  job : Job
  /-- the capacities, which no step changes (R5; log 4) -/
  caps : Caps
  /-- the host accesses still to come (log 1) -/
  host : List HostOp
  /-- the answer to the last host access (log 2) -/
  resp : Resp
  /-- how many times free values have been drawn (log 5) -/
  draw : Nat
  deriving DecidableEq, Repr

/-- Why a run has no defined outcome (R297). -/
inductive Fault where
  /-- A command or a host access reads a cell that nothing has written (R56, U2). Safe: the model stops where the
  hardware would go on with a value nobody states. -/
  | unwritten (m : Space) (a : Nat)
  /-- The host makes another access than a `STATUS` read, a `CMD` write or `rst` while `BUSY` (R17, U1). Safe: the spec
  defines no outcome. -/
  | hostAccessWhileBusy
  /-- The host addresses a register offset or a memory cell that does not exist (R53). Safe: the port has no such
  address. -/
  | noSuchAddress (off : Nat)
  /-- The palette indexer is asked for a pixel that is not in `PAL`, which R110 rules out. Safe: no run from reset
  raises it (log 24). -/
  | notInPalette
  deriving DecidableEq, Repr

/-- Why an instruction has no meaning in a state. -/
inductive Refusal where
  /-- The instruction has no meaning in this model yet. Safe. Only `exec`'s arms may answer it; none does. -/
  | notModelled (mnemonic : String)
  /-- A header, palette entry or record is executed where its context (the opcode table's "context") is not open. Safe:
  `step` never does so, because it decodes in the context that is open (log 20). -/
  | outOfContext (mnemonic : String)
  deriving DecidableEq, Repr

/-- The working registers after reset (R27); `RUN_VAL` is unspecified there and is zero by choice (log 6). -/
def Work.reset : Work :=
  { prev := Pixel.black, runVal := Pixel.black, runCnt := 0, acc := 0, accN := 0, rp := 0, wp := 0, pix := 0 }

/-- The machine right after reset (R27, R280): no cell of any memory holds a value; no command and no host access is
pending (log 1); the capacities are unbounded (log 4). -/
def State.reset : State :=
  { status := .idle, err := .none, version := 0, depth := 0, rle := 0, width := 0, height := 0, inLen := 0, outLen := 0,
    hdrLen := 0, palSize := 0, work := Work.reset, pal := [], ibuf := [], obuf := [], pmem := [], job := .none,
    caps := { ibuf := none, obuf := none, pmem := none }, host := [], resp := .none, draw := 0 }

end Sys2Proof.Machine
end

