-- ==== Sys2Proof/Machine/Ops.lean ====
section
/-! DEFINITION. The named operations over memories, cursors and registers; the start of a command (R12, R28), taking an
error (R262), leaving it (R264), and the end of each command (R197, R233). -/

namespace Sys2Proof.Machine

/-! ### Memories -/

/-- The value a cell holds, if any (R56). -/
def Memory.read {α : Type} : Memory α → Nat → Option α
  | [], _ => none
  | (k, v) :: m, a => if k = a then some v else Memory.read m a

/-- A write changes only the addressed cell (R48); it keeps the addresses rising. -/
def Memory.write {α : Type} : Memory α → Nat → α → Memory α
  | [], a, v => [(a, v)]
  | (k, w) :: m, a, v =>
    if a < k then (a, v) :: (k, w) :: m else if a = k then (a, v) :: m else (k, w) :: Memory.write m a v

/-- Writes at consecutive addresses, in increasing order (R48). -/
def Memory.writeRange {α : Type} (m : Memory α) (a : Nat) : List α → Memory α
  | [] => m
  | v :: vs => Memory.writeRange (Memory.write m a v) (a + 1) vs

/-- The values of `n` consecutive cells, if all of them hold one. -/
def Memory.readRange {α : Type} (m : Memory α) (a : Nat) : Nat → Option (List α)
  | 0 => some []
  | n + 1 =>
    match Memory.read m a, Memory.readRange m (a + 1) n with
    | some v, some vs => some (v :: vs)
    | _, _ => none

/-- Every written cell at or beyond `n` comes to hold the unspecified value `f` gives it; the rest stays (U4, U5). -/
def Memory.loosen {α : Type} (m : Memory α) (n : Nat) (f : Nat → α) : Memory α :=
  m.map fun c => if c.1 < n then c else (c.1, f c.1)

/-- The canonical form: addresses strictly rising, so that equal memories are equal data (log 8). -/
abbrev Memory.wf {α : Type} (m : Memory α) : Prop := (m.map Prod.fst).Pairwise (· < ·)

/-! ### Capacities (R5, R57) -/

/-- `n` units fit a memory of this capacity. -/
def fits (n : Nat) : Option Nat → Bool
  | none => true
  | some c => n ≤ c

/-! ### Outcomes of one engine step -/

/-- Why an engine step does not complete: an error of the engine (R262), or a fault of the model (R297). -/
inductive Stop where
  | err (e : ErrKind)
  | fault (f : Fault)
  deriving DecidableEq, Repr

/-- The unspecified pixel that draw `d` leaves at `site` (log 5). -/
def freePixel (site : Site) (d : Nat) : Pixel :=
  let v := Config.freeBits 24 site d
  ⟨v.extractLsb' 16 8, v.extractLsb' 8 8, v.extractLsb' 0 8⟩

/-- The unspecified value of `PAL_SIZE` (log 5). -/
def freePalSize (d : Nat) : BitVec 9 := BitVec.ofNat 9 (Config.freePalSize d).val

/-- Working registers and cursors after a command hold any value within their ranges (U3, R297; log 10). -/
def freeWork (d : Nat) : Work :=
  { prev := freePixel .prev d, runVal := freePixel .runVal d, runCnt := Config.freeBits 8 .runCnt d,
    acc := Config.freeBits 8 .acc d, accN := BitVec.ofNat 4 (Config.freeAccN d).val,
    rp := (Config.freeBits 32 .rp d).toNat, wp := (Config.freeBits 32 .wp d).toNat,
    pix := (Config.freeBits 32 .pix d).toNat }

/-- The end of every command: no command is in progress, and nothing is known of the working registers (U3). -/
def retire (s : State) : State :=
  { s with work := freeWork s.draw, job := .none, draw := s.draw + 1 }

/-- What a failed `ENC` leaves unspecified (R262, U4; log 9). -/
def loseEnc (s : State) : State :=
  { s with
    outLen := Config.freeBits 32 .outLen s.draw, hdrLen := Config.freeBits 16 .hdrLen s.draw,
    palSize := freePalSize s.draw,
    obuf := s.obuf.loosen 0 fun a => Config.freeBits 8 (.obuf a) s.draw,
    pal := s.pal.loosen 0 fun i => freePixel (.pal i) s.draw }

/-- What a failed `DEC` leaves unspecified (R262, U4; log 9). -/
def loseDec (s : State) : State :=
  { s with
    version := Config.freeBits 8 .version s.draw, depth := Config.freeBits 8 .depth s.draw,
    rle := Config.freeBits 1 .rle s.draw, width := Config.freeBits 16 .width s.draw,
    height := Config.freeBits 16 .height s.draw, hdrLen := Config.freeBits 16 .hdrLen s.draw,
    palSize := freePalSize s.draw,
    pmem := s.pmem.loosen 0 fun i => freePixel (.pmem i) s.draw,
    pal := s.pal.loosen 0 fun i => freePixel (.pal i) s.draw }

/-- The outputs of the command in progress become unspecified (R262). -/
def loseOutputs (s : State) : State :=
  match s.job with
  | .none => s
  | .decHeader => loseDec s
  | .decPalette _ _ => loseDec s
  | .decStream _ => loseDec s
  | .encStart => loseEnc s
  | .encPalette _ _ => loseEnc s
  | .encHeader _ => loseEnc s
  | .encPalOut _ _ => loseEnc s
  | .encStream _ => loseEnc s

/-- `raise E` (R262), the engine's taking of an error: the command stops at once, `ERR.code` and `STATUS.state` are
written, and what the command may write is unspecified. There is no handler and nothing is saved. -/
def raise (e : ErrKind) (s : State) : State :=
  { retire (loseOutputs s) with status := .error, err := e }

/-- Leaving `ERROR` (or `DONE`) by `CLR` (R12, R264): state and code only. There is no other return. -/
def clearCommand (s : State) : State := { s with status := .idle, err := .none }

/-- One engine step that either completes, raises an error from the state before it, or is undefined. -/
def settle (s : State) : Except Stop State → Host.Outcome State Fault Refusal
  | .ok t => .next t
  | .error (.err e) => .next (raise e s)
  | .error (.fault f) => .fault f

/-! ### Named updates -/

/-- The command in progress enters the phase `j`. -/
def setJob (j : Job) (s : State) : State := { s with job := j }

/-- The host accesses still to come. -/
def setHost (ops : List HostOp) (s : State) : State := { s with host := ops }

/-- `RP` moves past `n` bytes (R21, R22). -/
def skipBytes (n : Nat) (s : State) : State := { s with work := { s.work with rp := s.work.rp + n } }

/-- `PAL_SIZE <- k` (R28, R108, R216). -/
def setPalSize (k : Nat) (s : State) : State := { s with palSize := BitVec.ofNat 9 k }

/-- `PAL[i] <- p` (R108, R216). -/
def writePal (i : Nat) (p : Pixel) (s : State) : State := { s with pal := s.pal.write i p }

/-- `PMEM[i] <- p`, from the host's port (R52). -/
def writePixel (i : Nat) (p : Pixel) (s : State) : State := { s with pmem := s.pmem.write i p }

/-- `IBUF[a] <- v`, from the host's port (R53). -/
def writeByte (a : Nat) (v : Byte) (s : State) : State := { s with ibuf := s.ibuf.write a v }

/-- `PREV <- p` (R18). -/
def setPrev (p : Pixel) (s : State) : State := { s with work := { s.work with prev := p } }

/-- `RUN_VAL <- v`, `RUN_CNT <- n` (R19). -/
def setRun (v : Pixel) (n : Byte) (s : State) : State := { s with work := { s.work with runVal := v, runCnt := n } }

/-- `ACC <- a`, `ACC_N <- n` (R20). -/
def setAcc (a : Byte) (n : BitVec 4) (s : State) : State := { s with work := { s.work with acc := a, accN := n } }

/-- `PIX <- PIX + 1` (R21). -/
def nextPixel (s : State) : State := { s with work := { s.work with pix := s.work.pix + 1 } }

/-- The bytes `bs` at `OBUF[WP]` onwards, and `WP` past them (R7). -/
def emitBytes (bs : List Byte) (s : State) : State :=
  { s with
    obuf := s.obuf.writeRange s.work.wp bs
    work := { s.work with wp := s.work.wp + bs.length } }

/-! ### Start and end of a command -/

/-- The per-command initialisation (R28). `RUN_VAL` is not initialised: no run is open. -/
def initWork (w : Work) : Work :=
  { prev := Pixel.black, runVal := w.runVal, runCnt := 0, acc := 0, accN := 0, rp := 0, wp := 0, pix := 0 }

/-- The start of a command (R12): `BUSY`, no error, working registers initialised, at its first phase `j`. -/
def startCommand (j : Job) (s : State) : State :=
  { s with status := .busy, err := .none, work := initWork s.work, job := j }

/-- The pixel count `N` of a parsed header (R212). -/
def Hdr.pixels (h : Hdr) : Nat := h.width.toNat * h.height.toNat

/-- The pixel count `WIDTH * HEIGHT` of the registers. -/
def pixelCount (s : State) : Nat := s.width.toNat * s.height.toNat

/-- The end of a successful `DEC` (R233). `PMEM` beyond the image and `PAL` beyond `PAL_SIZE` are unspecified (U5; log 11). -/
def finishDec (h : Hdr) (s : State) : State :=
  retire
    { s with
      status := .done, version := h.version, width := h.width, height := h.height, hdrLen := h.headerLen,
      depth := h.depth, rle := h.rle.extractLsb' 0 1, palSize := BitVec.ofNat 9 h.k,
      pmem := s.pmem.loosen h.pixels fun i => freePixel (.pmem i) s.draw,
      pal := s.pal.loosen h.k fun i => freePixel (.pal i) s.draw }

/-- The length of the file as `OUT_LEN` holds it; the spec states no value beyond 32 bits, but that the same
file always gives the same one (R16, R198, D25; log 13). -/
def outLenOf (n : Nat) : BitVec 32 :=
  if n < 2 ^ 32 then BitVec.ofNat 32 n else Config.longOutLen n

/-- The end of a successful `ENC` with a header of `hl` bytes and a palette of `k` entries (R197). `OBUF` beyond
`OUT_LEN` and `PAL` beyond `PAL_SIZE` are unspecified (U5; log 11). -/
def finishEnc (hl k : Nat) (s : State) : State :=
  retire
    { s with
      status := .done, outLen := outLenOf s.work.wp, hdrLen := BitVec.ofNat 16 hl, palSize := BitVec.ofNat 9 k,
      obuf := s.obuf.loosen s.work.wp fun a => Config.freeBits 8 (.obuf a) s.draw,
      pal := s.pal.loosen k fun i => freePixel (.pal i) s.draw }

/-! ### Cursor moves -/

/-- `emit(b0, b1, ...)` (R7): every byte must fit `OBUF` (R57, R196). -/
def emit (bs : List Byte) (s : State) : Except Stop State :=
  if fits (s.work.wp + bs.length) s.caps.obuf then .ok (emitBytes bs s) else .error (.err .bufferOverflow)

/-- The pixels of a decoded record of `len` bytes go to `PMEM[PIX]` onwards, and both cursors advance (R21, R22). -/
def putPixels (ps : List Pixel) (len : Nat) (s : State) : State :=
  { s with
    pmem := s.pmem.writeRange s.work.pix ps
    work := { s.work with pix := s.work.pix + ps.length, rp := s.work.rp + len } }

/-- `PMEM[i]`, which must have been written (R56, U2). -/
def readPixel (i : Nat) (s : State) : Except Stop Pixel :=
  match s.pmem.read i with
  | some p => .ok p
  | none => .error (.fault (.unwritten .pmem i))

end Sys2Proof.Machine
end

