-- ==== Sys2Proof/Machine/Operands.lean ====
section
/-! DEFINITION. Operand forms: pixels from integers (R101), signed deltas (R130, R147), palette indices (R110, R112),
packed lanes (R46, R123), the record kind a header selects (R64). -/

namespace Sys2Proof.Machine

/-! ### Pixels and deltas -/

/-- `in(v, 0, 255)` (R101). -/
abbrev isChannel (v : Int) : Prop := 0 ≤ v ∧ v ≤ 255

/-- `Pixel.make` (R101): integers of any size; no clamping and no reduction. -/
def makePixel (r g b : Int) : Except ErrKind Pixel :=
  if isChannel r ∧ isChannel g ∧ isChannel b then
    .ok ⟨BitVec.ofNat 8 r.toNat, BitVec.ofNat 8 g.toNat, BitVec.ofNat 8 b.toNat⟩
  else .error .channelOutOfRange

/-- A channel as the integer it stands for. -/
def chan (c : Byte) : Int := (c.toNat : Int)

/-- `cur <- prev + delta`, exact, with the range check (R140 to R144, R147). -/
def reconstruct (prev : Pixel) (dr dg db : Int) : Except ErrKind Pixel :=
  makePixel (chan prev.r + dr) (chan prev.g + dg) (chan prev.b + db)

/-! ### Palette -/

/-- `PaletteLookup(i)` (R112). An entry below `PAL_SIZE` that nothing wrote holds no value (U2). -/
def paletteLookup (i : Nat) (s : State) : Except Stop Pixel :=
  if s.palSize.toNat ≤ i then .error (.err .formatError)
  else
    match s.pal.read i with
    | some p => .ok p
    | none => .error (.fault (.unwritten .pal i))

/-- `PaletteLookup` of several indices, in order (R225). -/
def paletteLookups : List Nat → State → Except Stop (List Pixel)
  | [], _ => .ok []
  | i :: is, s =>
    match paletteLookup i s with
    | .error e => .error e
    | .ok p =>
      match paletteLookups is s with
      | .error e => .error e
      | .ok ps => .ok (p :: ps)

/-- The first of the `n` palette entries from `j` on that equals `p` (the scans of R108 and R110). -/
def paletteScan (pal : Memory Pixel) (p : Pixel) (j : Nat) : Nat → Except Stop (Option Nat)
  | 0 => .ok none
  | n + 1 =>
    match pal.read j with
    | none => .error (.fault (.unwritten .pal j))
    | some q => if q = p then .ok (some j) else paletteScan pal p (j + 1) n

/-- `PaletteIndex(p)` (R110). The rule says every pixel is found; the other case is a fault (log 24). -/
def paletteIndex (p : Pixel) (s : State) : Except Stop Nat :=
  match paletteScan s.pal p 0 s.palSize.toNat with
  | .error e => .error e
  | .ok (some j) => .ok j
  | .ok none => .error (.fault .notInPalette)

/-! ### Packed lanes -/

/-- Indices per packed byte, `k = 8 / d` (R46). -/
def lanesPerByte (d : Nat) : Nat := 8 / d

/-- `ceil(a / b)` (R7). -/
def ceilDiv (a b : Nat) : Nat := (a + b - 1) / b

/-- The depth of a packed record kind. -/
def packDepth : RecordKind → Option Nat
  | .pack1 => some 1
  | .pack2 => some 2
  | .pack4 => some 4
  | .pix => none
  | .run => none
  | .idx => none
  | .runi => none
  | .delta => none

/-! ### Selection of the stream format -/

/-- The record kind of `(version, depth, rle)` (R64); `none` is a combination that selects no stream. -/
def streamKind (version depth rle : Byte) : Option RecordKind :=
  if version = 1 then some .pix
  else if version = 2 then some .run
  else if version = 4 then some .delta
  else if version = 3 then
    if depth = 24 then if rle = 0 then some .pix else if rle = 1 then some .run else none
    else if depth = 8 then if rle = 0 then some .idx else if rle = 1 then some .runi else none
    else if depth = 4 then if rle = 0 then some .pack4 else none
    else if depth = 2 then if rle = 0 then some .pack2 else none
    else if depth = 1 then if rle = 0 then some .pack1 else none
    else none
  else none

/-- The effective run-length flag (R186): forced to 0 at depths 1, 2 and 4. -/
def effectiveRle (depth : Byte) (rle : BitVec 1) : Byte :=
  if (depth = 8 ∨ depth = 24) ∧ rle = 1 then 1 else 0

/-- A configuration that stores a palette (R50, R62). -/
abbrev usesPalette (version depth : Byte) : Prop := version = 3 ∧ depth ≠ 24

end Sys2Proof.Machine
end

