-- ==== Sys2Proof/Machine/Records.lean ====
section
/-! DEFINITION. What all record meanings share: the context they stand in and the loop test of the stream decoders
(spec/45 R221 to R228). -/

namespace Sys2Proof.Machine

/-- The result type of a meaning. -/
abbrev Result := Host.Outcome State Fault Refusal

/-- A record of kind `kind` in a pixel stream of that kind. A record after the `N`-th pixel is left over whatever it
holds (R228, R148). Elsewhere the record has no context (log 20). -/
def inStream (mnemonic : String) (kind : RecordKind) (s : State) (body : Hdr → Except Stop State) : Result :=
  match s.job with
  | .decStream h =>
    if h.kind = kind then
      settle s (if h.pixels ≤ s.work.pix then .error (.err .pixelCountMismatch) else body h)
    else .refused (.outOfContext mnemonic)
  | _ => .refused (.outOfContext mnemonic)

/-- The start of the pixel stream after `ParseHeader` (R220, R231): the image must fit `PMEM` (R57), and a packed
stream must have exactly `ceil(N / k)` bytes (R225). `RP` stands at the first stream byte. -/
def beginStream (h : Hdr) (s : State) : Except Stop State :=
  if !fits h.pixels s.caps.pmem then .error (.err .bufferOverflow)
  else
    match packDepth h.kind with
    | some d =>
      if s.inLen.toNat - s.work.rp = ceilDiv h.pixels (lanesPerByte d) then .ok (setJob (.decStream h) s)
      else .error (.err .pixelCountMismatch)
    | none => .ok (setJob (.decStream h) s)

/-- The end of the stream decoders' loop (R228): the stream must be used up exactly. -/
def endStream (h : Hdr) (s : State) : Except Stop State :=
  if s.work.rp = s.inLen.toNat then .ok (finishDec h s) else .error (.err .pixelCountMismatch)

end Sys2Proof.Machine
end

