-- ==== Sys2Proof/Machine/Command.lean ====
section
/-! DEFINITION. The host's writes to `CMD` (spec/10 R12). A write while `BUSY` is ignored. -/

namespace Sys2Proof.Machine

/-- A write to `CMD` in a state that is not `BUSY` does `act`; in `BUSY` it is ignored (R12). -/
def unlessBusy (act : State → State) (s : State) : Result :=
  if s.status = .busy then .next s else .next (act s)

/-- `NOP`: a write of 0 does nothing (R12). -/
def execNop (s : State) : Result := unlessBusy id s

/-- `ENC`: starts the command (R12, R28, R196); the engine's steps run it to its end (R197, R262). -/
def execEnc (s : State) : Result := unlessBusy (startCommand .encStart) s

/-- `DEC`: starts the command (R12, R28, R231); the engine's steps run it to its end (R233, R262). -/
def execDec (s : State) : Result := unlessBusy (startCommand .decHeader) s

/-- `CLR` (R12, R264). -/
def execClr (s : State) : Result := unlessBusy clearCommand s

end Sys2Proof.Machine
end

