-- ==== Sys2Proof/Machine/Delta.lean ====
section
/-! DEFINITION. Version 4: the Delta Classifier (spec/42 R130 to R132), the block the encoder picks (R133 to R138) and
the meanings of the six blocks and of a reserved first byte (R140 to R148). -/

namespace Sys2Proof.Machine

/-! ### Classifier and block choice -/

/-- The six outcomes of the classifier (R130). -/
inductive Shape where
  | small | inter | bigr | bigg | bigb | new
  deriving DecidableEq, Repr

/-- `Classify` on the three deltas, in the fixed priority order (R130). -/
def classify (dr dg db : Int) : Shape :=
  if within dr (-2) 1 ∧ within dg (-2) 1 ∧ within db (-2) 1 then .small
  else if within dg (-32) 31 ∧ within (dr - dg) (-8) 7 ∧ within (db - dg) (-8) 7 then .inter
  else if within dr (-128) 127 ∧ within (dg - dr) (-32) 31 ∧ within (db - dr) (-32) 31 then .bigr
  else if within dg (-128) 127 ∧ within (dr - dg) (-32) 31 ∧ within (db - dg) (-32) 31 then .bigg
  else if within db (-128) 127 ∧ within (dr - db) (-32) 31 ∧ within (dg - db) (-32) 31 then .bigb
  else .new

/-- The block that encodes `cur` after `prev` (R133 to R139). The deltas are exact differences (R131). -/
def blockFor (prev cur : Pixel) : Instr :=
  let dr := chan cur.r - chan prev.r
  let dg := chan cur.g - chan prev.g
  let db := chan cur.b - chan prev.b
  match classify dr dg db with
  | .small => .small dr dg db
  | .inter => .inter dr dg db
  | .bigr => .bigr dr dg db
  | .bigg => .bigg dr dg db
  | .bigb => .bigb dr dg db
  | .new => .new cur.r cur.g cur.b

/-! ### Meanings -/

/-- A block whose pixel is `cur`: it is stored and becomes the previous pixel (R18, R148). On an error nothing is
stored and `PREV` is not updated (R147). -/
def putBlock (cur : Except ErrKind Pixel) (len : Nat) (s : State) : Except Stop State :=
  match cur with
  | .error e => .error (.err e)
  | .ok p => .ok (setPrev p (putPixels [p] len s))

/-- `SMALL` (R140). -/
def execSmall (dr dg db : Int) (s : State) : Result :=
  inStream "SMALL" .delta s fun _ => putBlock (reconstruct s.work.prev dr dg db) 1 s

/-- `INTER` (R141). -/
def execInter (dr dg db : Int) (s : State) : Result :=
  inStream "INTER" .delta s fun _ => putBlock (reconstruct s.work.prev dr dg db) 2 s

/-- `BIGR` (R142). -/
def execBigr (dr dg db : Int) (s : State) : Result :=
  inStream "BIGR" .delta s fun _ => putBlock (reconstruct s.work.prev dr dg db) 3 s

/-- `BIGG` (R143). -/
def execBigg (dr dg db : Int) (s : State) : Result :=
  inStream "BIGG" .delta s fun _ => putBlock (reconstruct s.work.prev dr dg db) 3 s

/-- `BIGB` (R144). -/
def execBigb (dr dg db : Int) (s : State) : Result :=
  inStream "BIGB" .delta s fun _ => putBlock (reconstruct s.work.prev dr dg db) 3 s

/-- `NEW` (R145): the absolute pixel; `PREV` is not used. -/
def execNew (r g b : Byte) (s : State) : Result :=
  inStream "NEW" .delta s fun _ => putBlock (.ok ⟨r, g, b⟩) 4 s

/-- A reserved first byte (R146). -/
def execReservedV4 (_b0 : Byte) (s : State) : Result :=
  inStream "RESERVED_V4" .delta s fun _ => .error (.err .formatError)

end Sys2Proof.Machine
end

