-- ==== Sys2Proof/Machine/Header.lean ====
section
/-! DEFINITION. The header parser: `HDR12`, `HDR3` and `PAL` (spec/45 R210 to R217). Magic, version and the constant
`header_len` of `HDR12` are tested by the decoder; every failure here and there is `FormatError`. -/

namespace Sys2Proof.Machine

/-- A version 1, 2 or 4 header (R211, R213, R215 last line, R216, R217). -/
def parse12 (v : Byte) (w h : Half) (s : State) : Except Stop State :=
  if ¬ (v = 1 ∨ v = 2 ∨ v = 4) ∨ s.inLen.toNat < 12 then .error (.err .formatError)
  else
    match streamKind v 0 0 with
    | none => .error (.err .formatError)
    | some kind =>
      beginStream
        { version := v, headerLen := 12, width := w, height := h, depth := 0, rle := 0, k := 0, kind := kind }
        (skipBytes 12 (setPalSize 0 s))

/-- The number of palette entries of a version 3 header (R63, R215). -/
def paletteEntries (hl : Half) (d : Byte) : Nat := if d = 24 then 0 else (hl.toNat - 14) / 3

/-- The fixed part of a version 3 header (R214, R215); the palette, if any, follows (R216). -/
def parse3 (hl w h : Half) (d f : Byte) (s : State) : Except Stop State :=
  if ¬ legalHdr3 hl.toNat d f ∨ s.inLen.toNat < hl.toNat then .error (.err .formatError)
  else
    match streamKind 3 d f with
    | none => .error (.err .formatError)
    | some kind =>
      let k := paletteEntries hl d
      let hd : Hdr :=
        { version := 3, headerLen := hl, width := w, height := h, depth := d, rle := f, k := k, kind := kind }
      let t := skipBytes 14 (setPalSize k s)
      if k = 0 then beginStream hd t else .ok (setJob (.decPalette hd 0) t)

/-- Palette entry `i` of the header (R216). -/
def loadEntry (hd : Hdr) (i : Nat) (p : Pixel) (s : State) : Except Stop State :=
  let t := skipBytes 3 (writePal i p s)
  if i + 1 < hd.k then .ok (setJob (.decPalette hd (i + 1)) t) else beginStream hd t

/-- `HDR12`. -/
def execHdr12 (v : Byte) (w h : Half) (s : State) : Result :=
  match s.job with
  | .decHeader => settle s (parse12 v w h s)
  | _ => .refused (.outOfContext "HDR12")

/-- `HDR3`. -/
def execHdr3 (hl w h : Half) (d f : Byte) (s : State) : Result :=
  match s.job with
  | .decHeader => settle s (parse3 hl w h d f s)
  | _ => .refused (.outOfContext "HDR3")

/-- `PAL`. -/
def execPal (r g b : Byte) (s : State) : Result :=
  match s.job with
  | .decPalette hd i => settle s (loadEntry hd i ⟨r, g, b⟩ s)
  | _ => .refused (.outOfContext "PAL")

end Sys2Proof.Machine
end

