-- ==== Sys2Proof/Machine/Pack.lean ====
section
/-! DEFINITION. Packed records `PACK1`, `PACK2`, `PACK4` (spec/41 R123, spec/45 R225). -/

namespace Sys2Proof.Machine

/-- One byte of `Unpack` (R123): its lanes up to the `N`-th index, each looked up in order (R225); the rest is padding
and is not looked up. `ACC` holds the byte and `ACC_N` the number of indices taken from it (R20). -/
def packRecord (d : Nat) (lanes : List Nat) (h : Hdr) (s : State) : Except Stop State :=
  let taken := lanes.take (h.pixels - s.work.pix)
  match paletteLookups taken s with
  | .error e => .error e
  | .ok ps => .ok (setAcc (byteOf (packByte d lanes)) (BitVec.ofNat 4 taken.length) (putPixels ps 1 s))

/-- `PACK1`. -/
def execPack1 (i0 i1 i2 i3 i4 i5 i6 i7 : BitVec 1) (s : State) : Result :=
  inStream "PACK1" .pack1 s fun h =>
    packRecord 1 [i0.toNat, i1.toNat, i2.toNat, i3.toNat, i4.toNat, i5.toNat, i6.toNat, i7.toNat] h s

/-- `PACK2`. -/
def execPack2 (i0 i1 i2 i3 : BitVec 2) (s : State) : Result :=
  inStream "PACK2" .pack2 s fun h => packRecord 2 [i0.toNat, i1.toNat, i2.toNat, i3.toNat] h s

/-- `PACK4`. -/
def execPack4 (i0 i1 : BitVec 4) (s : State) : Result :=
  inStream "PACK4" .pack4 s fun h => packRecord 4 [i0.toNat, i1.toNat] h s

end Sys2Proof.Machine
end

