-- ==== Sys2Proof/Machine/Raw.lean ====
section
/-! DEFINITION. Records of one pixel without a tag: `PIX` (spec/45 R221) and `IDX` (R224). -/

namespace Sys2Proof.Machine

/-- `PIX`: no byte value is illegal (R221). -/
def execPix (r g b : Byte) (s : State) : Result :=
  inStream "PIX" .pix s fun _ => .ok (putPixels [⟨r, g, b⟩] 3 s)

/-- `IDX`: the pixel is the palette entry (R224, R112). -/
def execIdx (i : Byte) (s : State) : Result :=
  inStream "IDX" .idx s fun _ =>
    match paletteLookup i.toNat s with
    | .error e => .error e
    | .ok p => .ok (putPixels [p] 1 s)

end Sys2Proof.Machine
end

