-- ==== Sys2Proof/Machine/RunLength.lean ====
section
/-! DEFINITION. Run records `RUN` and `RUNI` (spec/43 R165 to R167). -/

namespace Sys2Proof.Machine

/-- One record of `RleDec` (R165), its tests in the rule's order: count not 0, value valid, run fits. -/
def runRecord (n : Byte) (value : Except Stop Pixel) (len : Nat) (h : Hdr) (s : State) : Except Stop State :=
  if n = 0 then .error (.err .formatError)
  else
    match value with
    | .error e => .error e
    | .ok p =>
      if h.pixels < s.work.pix + n.toNat then .error (.err .pixelCountMismatch)
      else .ok (putPixels (List.replicate n.toNat p) len s)

/-- `RUN` (R166). -/
def execRun (n r g b : Byte) (s : State) : Result :=
  inStream "RUN" .run s fun h => runRecord n (.ok ⟨r, g, b⟩) 4 h s

/-- `RUNI` (R167): the lookup is done once, before the run-fits test. -/
def execRuni (n i : Byte) (s : State) : Result :=
  inStream "RUNI" .runi s fun h => runRecord n (paletteLookup i.toNat s) 2 h s

end Sys2Proof.Machine
end

