-- ==== Sys2Proof/Machine/Dispatch.lean ====
section
/-! DEFINITION. The meaning of every instruction. -/

namespace Sys2Proof.Machine

def exec (i : Instr) (s : State) : Host.Outcome State Fault Refusal :=
  match i with
  | .hdr12 v w h => Sys2Proof.Machine.execHdr12 v w h s
  | .hdr3 hl w h d f => Sys2Proof.Machine.execHdr3 hl w h d f s
  | .pal r g b => Sys2Proof.Machine.execPal r g b s
  | .pix r g b => Sys2Proof.Machine.execPix r g b s
  | .run n r g b => Sys2Proof.Machine.execRun n r g b s
  | .idx x => Sys2Proof.Machine.execIdx x s
  | .runi n x => Sys2Proof.Machine.execRuni n x s
  | .pack1 a b c d e f g h => Sys2Proof.Machine.execPack1 a b c d e f g h s
  | .pack2 a b c d => Sys2Proof.Machine.execPack2 a b c d s
  | .pack4 a b => Sys2Proof.Machine.execPack4 a b s
  | .small dr dg db => Sys2Proof.Machine.execSmall dr dg db s
  | .inter dr dg db => Sys2Proof.Machine.execInter dr dg db s
  | .bigr dr dg db => Sys2Proof.Machine.execBigr dr dg db s
  | .bigg dr dg db => Sys2Proof.Machine.execBigg dr dg db s
  | .bigb dr dg db => Sys2Proof.Machine.execBigb dr dg db s
  | .new r g b => Sys2Proof.Machine.execNew r g b s
  | .reservedV4 b0 => Sys2Proof.Machine.execReservedV4 b0 s
  | .nop => Sys2Proof.Machine.execNop s
  | .enc => Sys2Proof.Machine.execEnc s
  | .dec => Sys2Proof.Machine.execDec s
  | .clr => Sys2Proof.Machine.execClr s

end Sys2Proof.Machine
end

