-- ==== Sys2Proof/Machine/Encoder.lean ====
section
/-! DEFINITION. The `ENC` command at the step level: configuration check, palette scan, header, one step per pixel, and
the end (spec/44, spec/43 R160 to R164, spec/41 R122, spec/42 R139, spec/40 R108 to R110). It emits `encode` of the
instructions of the format. -/

namespace Sys2Proof.Machine

/-! ### Configuration -/

/-- `CheckConfig` (R181). -/
abbrev legalConfig (version depth : Byte) : Prop :=
  (version = 1 ∨ version = 2 ∨ version = 3 ∨ version = 4) ∧
  (version = 3 → depth = 1 ∨ depth = 2 ∨ depth = 4 ∨ depth = 8 ∨ depth = 24)

/-- The number of palette entries the file stores (R197): 0 without a palette. -/
def entryCount (s : State) : Nat := if usesPalette s.version s.depth then s.palSize.toNat else 0

/-- The length of the header (R50, R182, R183). -/
def headerLength (s : State) : Nat := if s.version = 3 then 14 + 3 * entryCount s else 12

/-- The fixed part of the header (R182, R183); the run-length flag is the effective one (R186). -/
def headerInstr (s : State) : Instr :=
  if s.version = 3 then
    .hdr3 (BitVec.ofNat 16 (headerLength s)) s.width s.height s.depth (effectiveRle s.depth s.rle)
  else .hdr12 s.version s.width s.height

/-- The first checks of `ENC` (R181, R196, R261) and the selection of the stream encoder (R180). -/
def encStart (s : State) : Except Stop State :=
  if ¬ legalConfig s.version s.depth then .error (.err .invalidConfig)
  else if !fits (pixelCount s) s.caps.pmem then .error (.err .bufferOverflow)
  else
    match streamKind s.version s.depth (effectiveRle s.depth s.rle) with
    | none => .error (.err .invalidConfig)
    | some kind =>
      if usesPalette s.version s.depth then .ok (setJob (.encPalette kind 0) (setPalSize 0 s))
      else .ok (setJob (.encHeader kind) s)

/-! ### Palette Builder -/

/-- Pixel `i` of the palette scan (R108, R109). -/
def paletteStep (kind : RecordKind) (i : Nat) (s : State) : Except Stop State :=
  if pixelCount s ≤ i then .ok (setJob (.encHeader kind) s)
  else
    match readPixel i s with
    | .error e => .error e
    | .ok p =>
      match paletteScan s.pal p 0 s.palSize.toNat with
      | .error e => .error e
      | .ok (some _) => .ok (setJob (.encPalette kind (i + 1)) s)
      | .ok none =>
        if 2 ^ s.depth.toNat ≤ s.palSize.toNat then .error (.err .paletteTooLarge)
        else
          .ok (setJob (.encPalette kind (i + 1))
            (setPalSize (s.palSize.toNat + 1) (writePal s.palSize.toNat p s)))

/-! ### Header -/

/-- The fixed part of the header is written (R182, R183). -/
def headerStep (kind : RecordKind) (s : State) : Except Stop State :=
  match emit (encode (headerInstr s)) s with
  | .error e => .error e
  | .ok t => .ok (setJob (.encPalOut kind 0) t)

/-- Palette entry `i` is written, verbatim and in index order (R183); after the last one the stream begins. -/
def paletteOutStep (kind : RecordKind) (i : Nat) (s : State) : Except Stop State :=
  if i < entryCount s then
    match s.pal.read i with
    | none => .error (.fault (.unwritten .pal i))
    | some p =>
      match emit (encode (.pal p.r p.g p.b)) s with
      | .error e => .error e
      | .ok t => .ok (setJob (.encPalOut kind (i + 1)) t)
  else .ok (setJob (.encStream kind) s)

/-! ### Run-length encoder -/

/-- The bytes of `EmitRun` (R161, R162); the index of a `RUNI` is the low byte of `RUN_VAL` (R19, log 7). -/
def runBytes (kind : RecordKind) (n : Byte) (v : Pixel) : List Byte :=
  match kind with
  | .runi => encode (.runi n v.b)
  | _ => encode (.run n v.r v.g v.b)

/-- The open run, if any, is written (R160). -/
def flushRun (kind : RecordKind) (s : State) : Except Stop State :=
  if s.work.runCnt = 0 then .ok s else emit (runBytes kind s.work.runCnt s.work.runVal) s

/-- One symbol of `RleEnc` (R160, R164); `same` says whether it equals `RUN_VAL`. -/
def runStep (kind : RecordKind) (same : Bool) (sym : Pixel) (s : State) : Except Stop State :=
  if s.work.runCnt ≠ 0 ∧ same = true ∧ s.work.runCnt.toNat < 255 then
    .ok (setRun s.work.runVal (s.work.runCnt + 1) s)
  else
    match flushRun kind s with
    | .error e => .error e
    | .ok t => .ok (setRun sym 1 t)

/-- A palette index as `RUN_VAL` holds it (R19, log 7). -/
def indexSymbol (i : Byte) : Pixel := ⟨0, 0, i⟩

/-! ### Bit Packer -/

/-- `PackStep` (R122). Lanes do not overlap, so the rule's `|` is `+`. -/
def packStep (d i : Nat) (s : State) : Except Stop State :=
  let acc := byteOf (s.work.acc.toNat + i * 2 ^ (8 - d * (s.work.accN.toNat + 1)))
  if s.work.accN.toNat + 1 = lanesPerByte d then
    emit [acc] (setAcc 0 0 s)
  else .ok (setAcc acc (s.work.accN + 1) s)

/-- `PackFlush` (R122). -/
def packFlush (s : State) : Except Stop State :=
  if s.work.accN = 0 then .ok s
  else emit [s.work.acc] (setAcc 0 0 s)

/-! ### Pixel stream -/

/-- The index of `p` is packed (R190). -/
def packPixel (d : Nat) (p : Pixel) (s : State) : Except Stop State :=
  match paletteIndex p s with
  | .error e => .error e
  | .ok j => packStep d j s

/-- One pixel goes through the stream encoder of the selected kind (R185 to R191). -/
def encodePixel (kind : RecordKind) (p : Pixel) (s : State) : Except Stop State :=
  match kind with
  | .pix => emit (encode (.pix p.r p.g p.b)) s
  | .run => runStep .run (decide (p = s.work.runVal)) p s
  | .idx =>
    match paletteIndex p s with
    | .error e => .error e
    | .ok j => emit (encode (.idx (byteOf j))) s
  | .runi =>
    match paletteIndex p s with
    | .error e => .error e
    | .ok j => runStep .runi (decide (byteOf j = s.work.runVal.b)) (indexSymbol (byteOf j)) s
  | .pack1 => packPixel 1 p s
  | .pack2 => packPixel 2 p s
  | .pack4 => packPixel 4 p s
  | .delta =>
    match emit (encode (blockFor s.work.prev p)) s with
    | .error e => .error e
    | .ok t => .ok (setPrev p t)

/-- What the stream encoder still holds after the last pixel is written (R160, R122). -/
def flushStream (kind : RecordKind) (s : State) : Except Stop State :=
  match kind with
  | .pix => .ok s
  | .run => flushRun .run s
  | .idx => .ok s
  | .runi => flushRun .runi s
  | .pack1 => packFlush s
  | .pack2 => packFlush s
  | .pack4 => packFlush s
  | .delta => .ok s

/-- One step of the stream encoder: the next pixel, or the flush and the end of the command (R197). -/
def encodeStep (kind : RecordKind) (s : State) : Except Stop State :=
  if s.work.pix < pixelCount s then
    match readPixel s.work.pix s with
    | .error e => .error e
    | .ok p =>
      match encodePixel kind p s with
      | .error e => .error e
      | .ok t => .ok (nextPixel t)
  else
    match flushStream kind s with
    | .error e => .error e
    | .ok t => .ok (finishEnc (headerLength t) (entryCount t) t)

end Sys2Proof.Machine
end

