-- ==== Sys2Proof/Machine/Flags.lean ====
section
/-! DEFINITION. The engine's only flag-like state: the codes of `STATUS.state` and `ERR.code` (spec/10 R11, R13, R23,
spec/60 R250). There are no condition codes, and no record writes a flag. -/

namespace Sys2Proof.Machine

/-- The value of `STATUS[1:0]` (R11). -/
def statusCode : Status → BitVec 2
  | .idle => 0
  | .busy => 1
  | .done => 2
  | .error => 3

/-- The value of `ERR[3:0]` (R250). -/
def errCode : ErrKind → BitVec 4
  | .none => 0
  | .channelOutOfRange => 1
  | .pixelCountMismatch => 2
  | .indexOutOfBounds => 3
  | .formatError => 4
  | .paletteTooLarge => 5
  | .invalidConfig => 6
  | .bufferOverflow => 7

end Sys2Proof.Machine
end

