-- ==== Sys2Proof/Machine/HostPort.lean ====
section
/-! DEFINITION. The host port: register block (spec/10 R11), byte and palette access (spec/20 R53), the checked pixel
port (R52), and `rst` (spec/70 R280, R281). `CMD` writes are instructions and are executed elsewhere. -/

namespace Sys2Proof.Machine

/-- The constant of the `ID` register (R11). -/
def idConstant : Word := 0x554C4234

/-- What a read of the register at a byte offset returns: bits above the field read as 0, `CMD` reads 0 (R11). -/
def regRead (off : Nat) (s : State) : Option Word :=
  match off with
  | 0x00 => some 0
  | 0x04 => some ((statusCode s.status).setWidth 32)
  | 0x08 => some ((errCode s.err).setWidth 32)
  | 0x0C => some (s.version.setWidth 32)
  | 0x10 => some (s.depth.setWidth 32)
  | 0x14 => some (s.rle.setWidth 32)
  | 0x18 => some (s.width.setWidth 32)
  | 0x1C => some (s.height.setWidth 32)
  | 0x20 => some s.inLen
  | 0x24 => some s.outLen
  | 0x28 => some (s.hdrLen.setWidth 32)
  | 0x2C => some (s.palSize.setWidth 32)
  | 0x30 => some idConstant
  | _ => none

/-- A write of a register other than `CMD`: bits above the field are ignored, and so are writes of read-only registers
(R11). -/
def regWrite (off : Nat) (v : Word) (s : State) : Option State :=
  match off with
  | 0x04 => some s
  | 0x08 => some s
  | 0x0C => some { s with version := v.setWidth 8 }
  | 0x10 => some { s with depth := v.setWidth 8 }
  | 0x14 => some { s with rle := v.setWidth 1 }
  | 0x18 => some { s with width := v.setWidth 16 }
  | 0x1C => some { s with height := v.setWidth 16 }
  | 0x20 => some { s with inLen := v }
  | 0x24 => some s
  | 0x28 => some s
  | 0x2C => some s
  | 0x30 => some s
  | _ => none

/-- The answer `r` goes to the host. -/
def answer (r : Resp) (s : State) : State := { s with resp := r }

/-- A read access to cell `a` of a memory of this capacity (R53, R56). -/
def readCell {α : Type} (m : Space) (mem : Memory α) (cap : Option Nat) (resp : α → Resp) (a : Nat) (s : State) : Result :=
  if !fits (a + 1) cap then .fault (.noSuchAddress a)
  else
    match mem.read a with
    | some v => .next (answer (resp v) s)
    | none => .fault (.unwritten m a)

/-- `x < WIDTH` and `y < HEIGHT` (R52). -/
abbrev inImage (x y : Nat) (s : State) : Prop := x < s.width.toNat ∧ y < s.height.toNat

/-- The linear index of `(x, y)` (R44, R52). -/
def pixelIndex (x y : Nat) (s : State) : Nat := x + y * s.width.toNat

/-- `PixelRead(x, y)` (R52, R104). -/
def portPixelRead (x y : Nat) (s : State) : Result :=
  if inImage x y s then readCell .pmem s.pmem s.caps.pmem Resp.pixel (pixelIndex x y s) s
  else .next (answer (.busError .indexOutOfBounds) s)

/-- `PixelWrite(x, y, p)` (R52, R105). -/
def portPixelWrite (x y : Nat) (p : Pixel) (s : State) : Result :=
  if inImage x y s then
    if fits (pixelIndex x y s + 1) s.caps.pmem then
      .next (answer .ack (writePixel (pixelIndex x y s) p s))
    else .fault (.noSuchAddress (pixelIndex x y s))
  else .next (answer (.busError .indexOutOfBounds) s)

/-- A write of an `IBUF` byte (R53). -/
def portWriteIbuf (a : Nat) (v : Byte) (s : State) : Result :=
  if fits (a + 1) s.caps.ibuf then .next (answer .ack (writeByte a v s))
  else .fault (.noSuchAddress a)

/-- The state after `rst` (R280, R281): the reset values, whatever ran before. The model's own fields that are no
state of the engine stay (log 25). -/
def resetEngine (s : State) : State :=
  { State.reset with caps := s.caps, host := s.host, resp := s.resp, draw := s.draw }

/-- A register read (R11). -/
def portReadReg (off : Nat) (s : State) : Result :=
  match regRead off s with
  | some w => .next (answer (.word w) s)
  | none => .fault (.noSuchAddress off)

/-- A register write other than `CMD` (R11). -/
def portWriteReg (off : Nat) (v : Word) (s : State) : Result :=
  match regWrite off v s with
  | some t => .next (answer .ack t)
  | none => .fault (.noSuchAddress off)

/-- The accesses the host may make while the state is `BUSY` (R17, R285, U1): a `STATUS` read, a `CMD` write, `rst`;
and none at all. -/
def allowedWhileBusy : HostOp → Bool
  | .tick => true
  | .wait => true
  | .readReg off => off == 0x04
  | .writeReg off _ => off == 0x00
  | .readIbuf _ => false
  | .writeIbuf _ _ => false
  | .readObuf _ => false
  | .readPal _ => false
  | .pixelRead _ _ => false
  | .pixelWrite _ _ _ => false
  | .rst => true

end Sys2Proof.Machine
end

