-- ==== Sys2Proof/Machine/Engine.lean ====
section
/-! DEFINITION. One step of the engine (fetch, decode and execute during `DEC`; one pixel or phase during `ENC`) and one
access of the host (spec/00 R8, R9; spec/45; log 16). -/

namespace Sys2Proof.Machine

/-! ### Fetch -/

/-- What a fetch at `RP` brings (R47). -/
inductive Fetched where
  /-- the bytes of one record -/
  | bytes (bs : List Byte)
  /-- the file ends first -/
  | short
  /-- a byte below `IN_LEN` was never written (U2) -/
  | unwritten
  deriving DecidableEq, Repr

/-- The bytes of the record at `RP` in context `c`. The engine never reads at or beyond `IN_LEN` (R47), and it reads no
byte beyond those that decide the outcome (R148, R210). -/
def fetchRecord (c : Ctx) (s : State) : Fetched :=
  if s.inLen.toNat < s.work.rp + needBytes c then .short
  else
    match s.ibuf.readRange s.work.rp (needBytes c) with
    | none => .unwritten
    | some pre =>
      if s.inLen.toNat < s.work.rp + recordLen c pre then .short
      else
        match s.ibuf.readRange s.work.rp (recordLen c pre) with
        | none => .unwritten
        | some bs => .bytes bs

/-- The error of a file that ends inside a record: `FormatError` in the header, `PixelCountMismatch` in the stream
(R47). -/
def shortError : Ctx → ErrKind
  | .cmd => .formatError
  | .header => .formatError
  | .palette => .formatError
  | .stream _ => .pixelCountMismatch

/-- Fetch, decode and execute one instruction of the file in context `c`. Bytes that are no instruction are a
`FormatError` (R210 to R213). -/
def runRecordAt (c : Ctx) (s : State) : Result :=
  match fetchRecord c s with
  | .short => .next (raise (shortError c) s)
  | .unwritten => .fault (.unwritten .ibuf s.work.rp)
  | .bytes bs =>
    match decode c bs with
    | .error _ => .next (raise .formatError s)
    | .ok (i, _) => exec i s

/-! ### The engine -/

/-- One step of the stream decoders (R221 to R228): the next record while a pixel is still needed, else the end. -/
def decodeStep (h : Hdr) (s : State) : Result :=
  if s.work.pix < h.pixels then runRecordAt (.stream h.kind) s else settle s (endStream h s)

/-- The header step of `DEC`: `IN_LEN` must fit `IBUF` before anything is read (R57, R231). -/
def headerParseStep (s : State) : Result :=
  if fits s.inLen.toNat s.caps.ibuf then runRecordAt .header s else .next (raise .bufferOverflow s)

/-- One step of the command in progress. With no command in progress the engine does nothing (R27). -/
def engineStep (s : State) : Result :=
  match s.job with
  | .none => .next s
  | .decHeader => headerParseStep s
  | .decPalette _ _ => runRecordAt .palette s
  | .decStream h => decodeStep h s
  | .encStart => settle s (encStart s)
  | .encPalette kind i => settle s (paletteStep kind i s)
  | .encHeader kind => settle s (headerStep kind s)
  | .encPalOut kind i => settle s (paletteOutStep kind i s)
  | .encStream kind => settle s (encodeStep kind s)

/-! ### The host -/

/-- A write to `CMD` runs the command of its low two bits (R11, R12, U8). -/
def portCommand (v : Word) (s : State) : Result :=
  exec (decodeCmd (v.setWidth 2)) (answer .ack s)

/-- One host access, already taken from the list. -/
def portAccess (op : HostOp) (s : State) : Result :=
  match op with
  | .tick => .next s
  | .wait => .next (answer (.word ((statusCode s.status).setWidth 32)) s)
  | .readReg off => portReadReg off s
  | .writeReg off v => if off = 0x00 then portCommand v s else portWriteReg off v s
  | .readIbuf a => readCell .ibuf s.ibuf s.caps.ibuf Resp.byte a s
  | .writeIbuf a v => portWriteIbuf a v s
  | .readObuf a => readCell .obuf s.obuf s.caps.obuf Resp.byte a s
  | .readPal i => readCell .pal s.pal (some 256) Resp.pixel i s
  | .pixelRead x y => portPixelRead x y s
  | .pixelWrite x y p => portPixelWrite x y p s
  | .rst => .next (answer .ack (resetEngine s))

/-- A host access in any state: while `BUSY` all but a few have no defined outcome (R17, U1). -/
def hostAccess (op : HostOp) (s : State) : Result :=
  if s.status = .busy ∧ allowedWhileBusy op = false then .fault .hostAccessWhileBusy else portAccess op s

/-- One step of the machine: the next host access if there is one, else one step of the engine. `tick` and `wait` leave
the step to the engine, `wait` for as long as the state is `BUSY` (log 1, log 16). -/
def machineStep (s : State) : Result :=
  match s.host with
  | [] => engineStep s
  | .tick :: rest => engineStep (setHost rest s)
  | .wait :: rest =>
    if s.status = .busy then engineStep s else hostAccess .wait (setHost rest s)
  | op :: rest => hostAccess op (setHost rest s)

/-! ### Placing an instruction where the next step fetches it (log 19) -/

/-- The header of a 16 by 16 image whose stream has records of this kind. -/
def sampleHdr (kind : RecordKind) : Hdr :=
  { version := match kind with
      | .pix => 1
      | .run => 2
      | .delta => 4
      | _ => 3
    headerLen := 12, width := 16, height := 16, depth := 8, rle := 0, k := 0, kind := kind }

/-- The bytes of an instruction of context `c` placed so that the next step decodes them: a `CMD` write for a command;
otherwise a `DEC` in progress in the phase that `c` names, with the bytes at `RP` and the file ending after them. -/
def placeBytes (c : Ctx) (bs : List Byte) (s : State) : State :=
  let running (j : Job) (rp : Nat) : State :=
    { s with
      status := .busy, err := .none, job := j, host := [],
      work := { s.work with rp := rp, pix := 0 },
      ibuf := s.ibuf.writeRange rp bs,
      inLen := BitVec.ofNat 32 (rp + bs.length) }
  match c with
  | .cmd => { s with host := [.writeReg 0x00 ((bs.headD 0).setWidth 32)] }
  | .header => running .decHeader 0
  | .palette => running (.decPalette { sampleHdr .idx with k := 1 } 0) 14
  | .stream kind => running (.decStream (sampleHdr kind)) 12

end Sys2Proof.Machine
end

