-- ==== Sys2Proof/Machine/Step.lean ====
section
/-! DEFINITION. The step function and the placing of an instruction where it is fetched. -/

namespace Sys2Proof.Machine

/-- One step of the machine (R8, R9; log 16). -/
def step (s : State) : Host.Outcome State Fault Refusal := machineStep s

/-- `s` with the instruction of this word of the opcode table placed where the next step fetches it (log 19). -/
def State.withFetchWord (s : State) (nbits w : Nat) : State :=
  placeBytes (tableCtx (wholeBytes nbits) w) (tableBytes (wholeBytes nbits) w) s

end Sys2Proof.Machine
end

