-- ==== Sys2Proof/Machine/Image.lean ====
section
/-! DEFINITION. The Image data type and its checked operations (spec/40 R102 to R106). In the engine an image is `WIDTH`,
`HEIGHT` and `PMEM`; the host's pixel port is the hardware form of `get` and `set` (R52). -/

namespace Sys2Proof.Machine

/-- An image (R102); its dimensions are the 16 bits a file can hold. -/
structure Image where
  width : Half
  height : Half
  pixels : List Pixel
  deriving DecidableEq, Repr

/-- `Image.make` (R103). -/
def makeImage (w h : Half) (px : List Pixel) : Except ErrKind Image :=
  if px.length = w.toNat * h.toNat then .ok ⟨w, h, px⟩ else .error .pixelCountMismatch

/-- `Image.get` (R104). -/
def imageGet (img : Image) (x y : Nat) : Except ErrKind Pixel :=
  if x < img.width.toNat ∧ y < img.height.toNat then
    match img.pixels[x + y * img.width.toNat]? with
    | some p => .ok p
    | none => .error .indexOutOfBounds
  else .error .indexOutOfBounds

/-- `Image.set` (R105). -/
def imageSet (img : Image) (x y : Nat) (p : Pixel) : Except ErrKind Image :=
  if x < img.width.toNat ∧ y < img.height.toNat then
    .ok { img with pixels := img.pixels.set (x + y * img.width.toNat) p }
  else .error .indexOutOfBounds

/-- `Image.get_unique_pixels` (R106): a set, given as a list without repeats; only its members count (S5; log 31). -/
def uniquePixels (img : Image) : List Pixel := img.pixels.eraseDups

end Sys2Proof.Machine
end

