-- ==== Sys2Proof/Machine/Codec.lean ====
section
/-! DEFINITION. The function level, which is normative (spec/00 R9): `ENCODE` (spec/44 R195) and `DECODE` (spec/45 R230)
as functions on byte and pixel sequences, with the capacity checks of the commands (R57, R196, R231). The engine's steps
refine them. -/

namespace Sys2Proof.Machine

/-! ### Decoder -/

/-- Consecutive byte triples as pixels (R42). -/
def pixelsOf : List Byte → List Pixel
  | r :: g :: b :: rest => ⟨r, g, b⟩ :: pixelsOf rest
  | _ => []

/-- `ParseHeader` (R217): the header and its palette. Every failure is `FormatError`. -/
def parseHeader (B : List Byte) : Except ErrKind (Hdr × List Pixel) :=
  match decodeHeader B with
  | .ok (.hdr12 v w h, _) =>
    match streamKind v 0 0 with
    | none => .error .formatError
    | some kind =>
      .ok ({ version := v, headerLen := 12, width := w, height := h, depth := 0, rle := 0, k := 0, kind := kind }, [])
  | .ok (.hdr3 hl w h d f, rest) =>
    if ¬ legalHdr3 hl.toNat d f ∨ B.length < hl.toNat then .error .formatError
    else
      match streamKind 3 d f with
      | none => .error .formatError
      | some kind =>
        let k := if d = 24 then 0 else (hl.toNat - 14) / 3
        .ok ({ version := 3, headerLen := hl, width := w, height := h, depth := d, rle := f, k := k, kind := kind },
          (pixelsOf rest).take k)
  | _ => .error .formatError

/-- `RawDec` (R221). -/
def rawDec : Nat → List Byte → Except ErrKind (List Pixel)
  | 0, [] => .ok []
  | 0, _ => .error .pixelCountMismatch
  | n + 1, r :: g :: b :: rest =>
    match rawDec n rest with
    | .error e => .error e
    | .ok ps => .ok (⟨r, g, b⟩ :: ps)
  | _ + 1, _ => .error .pixelCountMismatch

/-- `RleDec` (R165) with records of `len` bytes; `fuel` bounds the number of records, which `n` does. -/
def rleDec (len : Nat) (value : List Byte → Except ErrKind Pixel) : (fuel n : Nat) → List Byte → Except ErrKind (List Pixel)
  | 0, _, S => if S = [] then .ok [] else .error .pixelCountMismatch
  | fuel + 1, n, S =>
    if n = 0 then if S = [] then .ok [] else .error .pixelCountMismatch
    else if S.length < len then .error .pixelCountMismatch
    else
      match S.take len with
      | [] => .error .pixelCountMismatch
      | c :: v =>
        if c = 0 then .error .formatError
        else
          match value v with
          | .error e => .error e
          | .ok p =>
            if n < c.toNat then .error .pixelCountMismatch
            else
              match rleDec len value fuel (n - c.toNat) (S.drop len) with
              | .error e => .error e
              | .ok ps => .ok (List.replicate c.toNat p ++ ps)

/-- `PaletteLookup` (R112) in a palette given as a list. -/
def lookupIn (pal : List Pixel) (i : Nat) : Except ErrKind Pixel :=
  match pal[i]? with
  | some p => .ok p
  | none => .error .formatError

/-- `PaletteLookup` of each index in order. -/
def lookupAll (pal : List Pixel) : List Nat → Except ErrKind (List Pixel)
  | [] => .ok []
  | i :: is =>
    match lookupIn pal i with
    | .error e => .error e
    | .ok p =>
      match lookupAll pal is with
      | .error e => .error e
      | .ok ps => .ok (p :: ps)

/-- The value of a `RUN` record (R166). -/
def runValue : List Byte → Except ErrKind Pixel
  | [r, g, b] => .ok ⟨r, g, b⟩
  | _ => .error .pixelCountMismatch

/-- The value of a `RUNI` record (R167). -/
def runiValue (pal : List Pixel) : List Byte → Except ErrKind Pixel
  | [i] => lookupIn pal i.toNat
  | _ => .error .pixelCountMismatch

/-- `IdxDec` (R224). -/
def idxDec (pal : List Pixel) : Nat → List Byte → Except ErrKind (List Pixel)
  | 0, [] => .ok []
  | 0, _ => .error .pixelCountMismatch
  | n + 1, i :: rest =>
    match lookupIn pal i.toNat with
    | .error e => .error e
    | .ok p =>
      match idxDec pal n rest with
      | .error e => .error e
      | .ok ps => .ok (p :: ps)
  | _ + 1, [] => .error .pixelCountMismatch

/-- The lanes of a packed byte, first index first (R124). -/
def lanesOf (d : Nat) (b : Byte) : List Nat := (List.range (lanesPerByte d)).map fun j => (lane b d j).toNat

/-- `Unpack` (R123): the lanes of all bytes in order, up to `n` of them. -/
def unpack (d n : Nat) (S : List Byte) : List Nat := (S.flatMap (lanesOf d)).take n

/-- `PackDec` (R225). -/
def packDec (d : Nat) (pal : List Pixel) (n : Nat) (S : List Byte) : Except ErrKind (List Pixel) :=
  if S.length = ceilDiv n (lanesPerByte d) then lookupAll pal (unpack d n S) else .error .pixelCountMismatch

/-- The pixel of a version 4 block after `prev` (R140 to R146). -/
def blockPixel (prev : Pixel) : Instr → Except ErrKind Pixel
  | .small dr dg db => reconstruct prev dr dg db
  | .inter dr dg db => reconstruct prev dr dg db
  | .bigr dr dg db => reconstruct prev dr dg db
  | .bigg dr dg db => reconstruct prev dr dg db
  | .bigb dr dg db => reconstruct prev dr dg db
  | .new r g b => .ok ⟨r, g, b⟩
  | _ => .error .formatError

/-- `DeltaDec` (R148), one block per pixel. -/
def deltaDec : (prev : Pixel) → Nat → List Byte → Except ErrKind (List Pixel)
  | _, 0, S => if S = [] then .ok [] else .error .pixelCountMismatch
  | prev, n + 1, S =>
    match decodeDelta S with
    | .error _ => .error .pixelCountMismatch
    | .ok (i, rest) =>
      match blockPixel prev i with
      | .error e => .error e
      | .ok p =>
        match deltaDec p n rest with
        | .error e => .error e
        | .ok ps => .ok (p :: ps)

/-- The stream decoder of a record kind (R64, R220 to R226). -/
def streamDec (kind : RecordKind) (pal : List Pixel) (n : Nat) (S : List Byte) : Except ErrKind (List Pixel) :=
  match kind with
  | .pix => rawDec n S
  | .run => rleDec 4 runValue n n S
  | .idx => idxDec pal n S
  | .runi => rleDec 2 (runiValue pal) n n S
  | .pack1 => packDec 1 pal n S
  | .pack2 => packDec 2 pal n S
  | .pack4 => packDec 4 pal n S
  | .delta => deltaDec Pixel.black n S

/-- What a successful `DEC` delivers: the parsed header, its palette and the image's pixels (R233). -/
structure Decoded where
  hdr : Hdr
  pal : List Pixel
  pixels : List Pixel
  deriving DecidableEq, Repr

/-- `DEC` as a function of the file and the capacities (R231, R235), its errors in the order of R261. -/
def decodeWithin (caps : Caps) (B : List Byte) : Except ErrKind Decoded :=
  if !fits B.length caps.ibuf then .error .bufferOverflow
  else
    match parseHeader B with
    | .error e => .error e
    | .ok (h, pal) =>
      if !fits h.pixels caps.pmem then .error .bufferOverflow
      else
        match streamDec h.kind pal h.pixels (B.drop h.headerLen.toNat) with
        | .error e => .error e
        | .ok px => .ok ⟨h, pal, px⟩

/-- Capacities without bound (R5). -/
def unbounded : Caps := { ibuf := none, obuf := none, pmem := none }

/-- `DECODE` (R230); its last act is `Image.make` (R228). -/
def decodeFile (B : List Byte) : Except ErrKind Image :=
  match decodeWithin unbounded B with
  | .error e => .error e
  | .ok d => makeImage d.hdr.width d.hdr.height d.pixels

/-! ### Encoder -/

/-- `BuildPalette` (R108): the pixels still to scan and the palette so far. -/
def buildPalette (cap : Nat) : List Pixel → List Pixel → Except ErrKind (List Pixel)
  | [], pal => .ok pal
  | p :: ps, pal =>
    if p ∈ pal then buildPalette cap ps pal
    else if cap ≤ pal.length then .error .paletteTooLarge
    else buildPalette cap ps (pal ++ [p])

/-- `RleEnc` (R160) with an open run of `n` symbols `v`. -/
def rleFrom {α : Type} [DecidableEq α] (v : α) (n : Nat) : List α → List (Nat × α)
  | [] => [(n, v)]
  | s :: ss => if s = v ∧ n < 255 then rleFrom v (n + 1) ss else (n, v) :: rleFrom s 1 ss

/-- `RleEnc` (R160): the records as (count, symbol) pairs. -/
def rleEnc {α : Type} [DecidableEq α] : List α → List (Nat × α)
  | [] => []
  | s :: ss => rleFrom s 1 ss

/-- `Pack` (R120): one byte per group of `8 / d` indices; `fuel` bounds the number of groups. -/
def packBytes (d : Nat) : (fuel : Nat) → List Nat → List Byte
  | 0, _ => []
  | _ + 1, [] => []
  | fuel + 1, idx => byteOf (packByte d (idx.take (lanesPerByte d))) :: packBytes d fuel (idx.drop (lanesPerByte d))

/-- `Pack` (R120). -/
def pack (d : Nat) (idx : List Nat) : List Byte := packBytes d idx.length idx

/-- `DeltaEnc` (R139). -/
def deltaEnc (prev : Pixel) : List Pixel → List Byte
  | [] => []
  | p :: ps => encode (blockFor prev p) ++ deltaEnc p ps

/-- A pixel as three bytes (R42). -/
def pixelBytes (p : Pixel) : List Byte := [p.r, p.g, p.b]

/-- `PaletteIndex` (R110) in a palette given as a list. -/
def indexIn (pal : List Pixel) (p : Pixel) : Nat := pal.idxOf p

/-- The stream encoder of a record kind (R185 to R191) with a given palette. -/
def streamEnc (kind : RecordKind) (pal : List Pixel) (px : List Pixel) : List Byte :=
  match kind with
  | .pix => px.flatMap pixelBytes
  | .run => (rleEnc px).flatMap fun x => byteOf x.1 :: pixelBytes x.2
  | .idx => px.map fun p => byteOf (indexIn pal p)
  | .runi => (rleEnc (px.map (indexIn pal))).flatMap fun x => [byteOf x.1, byteOf x.2]
  | .pack1 => pack 1 (px.map (indexIn pal))
  | .pack2 => pack 2 (px.map (indexIn pal))
  | .pack4 => pack 4 (px.map (indexIn pal))
  | .delta => deltaEnc Pixel.black px

/-- A requested configuration (R15). -/
structure EncConfig where
  version : Byte
  depth : Byte
  rle : BitVec 1
  deriving DecidableEq, Repr

/-- The header bytes with a given palette (R182, R183). -/
def headerBytes (c : EncConfig) (w h : Half) (pal : List Pixel) : List Byte :=
  if c.version = 3 then
    encode (.hdr3 (BitVec.ofNat 16 (14 + 3 * pal.length)) w h c.depth (effectiveRle c.depth c.rle)) ++
      pal.flatMap pixelBytes
  else encode (.hdr12 c.version w h)

/-- The file with a given palette, in whatever order it is (R107, R195). -/
def fileWith (c : EncConfig) (kind : RecordKind) (w h : Half) (pal px : List Pixel) : List Byte :=
  headerBytes c w h pal ++ streamEnc kind pal px

/-- The palette an `ENC` builds: none outside version 3 with a palette depth (R188, R195). -/
def paletteFor (c : EncConfig) (px : List Pixel) : Except ErrKind (List Pixel) :=
  if usesPalette c.version c.depth then buildPalette (2 ^ c.depth.toNat) px [] else .ok []

/-- What a successful `ENC` delivers: the file and its palette (R197). -/
structure Encoded where
  file : List Byte
  pal : List Pixel
  deriving DecidableEq, Repr

/-- `ENC` as a function of the image, the configuration and the capacities (R196, R198), its errors in the order of
R261. -/
def encodeWithin (caps : Caps) (c : EncConfig) (w h : Half) (px : List Pixel) : Except ErrKind Encoded :=
  if ¬ legalConfig c.version c.depth then .error .invalidConfig
  else if !fits (w.toNat * h.toNat) caps.pmem then .error .bufferOverflow
  else
    match streamKind c.version c.depth (effectiveRle c.depth c.rle) with
    | none => .error .invalidConfig
    | some kind =>
      match paletteFor c px with
      | .error e => .error e
      | .ok pal =>
        let B := fileWith c kind w h pal px
        if fits B.length caps.obuf then .ok ⟨B, pal⟩ else .error .bufferOverflow

/-- `ENCODE` (R195). -/
def encodeImage (c : EncConfig) (img : Image) : Except ErrKind (List Byte) :=
  match encodeWithin unbounded c img.width img.height img.pixels with
  | .error e => .error e
  | .ok r => .ok r.file

end Sys2Proof.Machine
end

