-- ==== Sys2Proof/Safety.lean ====
section
/-! DEFINITION. What counts as a run, as a legal state and as a safe start, in the terms the statements use. -/

namespace Sys2Proof.Machine

/-! ### Runs -/

/-- `n` steps, ending at the first fault or refusal. -/
def runSteps : Nat → State → Result
  | 0, s => .next s
  | n + 1, s =>
    match step s with
    | .next t => runSteps n t
    | .fault f => .fault f
    | .refused r => .refused r

/-! ### Transitions of `STATUS` (R13) -/

/-- The changes of `STATUS.state` that R13 lists, and no change. -/
def statusMay : Status → Status → Bool
  | .busy, .idle => false
  | .busy, _ => true
  | .idle, .busy => true
  | .idle, .idle => true
  | .idle, _ => false
  | .done, .error => false
  | .done, _ => true
  | .error, .done => false
  | .error, _ => true

/-! ### Phases of a command -/

/-- The phases of a `DEC`. -/
def decoding : Job → Bool
  | .none => false
  | .decHeader => true
  | .decPalette _ _ => true
  | .decStream _ => true
  | .encStart => false
  | .encPalette _ _ => false
  | .encHeader _ => false
  | .encPalOut _ _ => false
  | .encStream _ => false

/-- The phases of an `ENC`. -/
def encoding : Job → Bool
  | .none => false
  | .decHeader => false
  | .decPalette _ _ => false
  | .decStream _ => false
  | .encStart => true
  | .encPalette _ _ => true
  | .encHeader _ => true
  | .encPalOut _ _ => true
  | .encStream _ => true

/-- The context in which the next engine step decodes the bytes at `RP`: the header while `IN_LEN` fits `IBUF` (R57), a
palette entry, or a record while a pixel is still needed (R221 to R228). -/
def openCtx (s : State) : Option Ctx :=
  match s.job with
  | .none => none
  | .decHeader => if fits s.inLen.toNat s.caps.ibuf then some .header else none
  | .decPalette _ _ => some .palette
  | .decStream h => if s.work.pix < h.pixels then some (.stream h.kind) else none
  | .encStart => none
  | .encPalette _ _ => none
  | .encHeader _ => none
  | .encPalOut _ _ => none
  | .encStream _ => none

/-- A pixel stream of kind `kind` is being decoded and still needs pixels. -/
def InStream (kind : RecordKind) (h : Hdr) (s : State) : Prop :=
  s.job = .decStream h ∧ h.kind = kind ∧ s.work.pix < h.pixels

/-- What must hold for the pixel stream of a parsed header to begin at offset `rp` (R57, R225, R231). -/
def StreamOpens (h : Hdr) (rp : Nat) (s : State) : Prop :=
  fits h.pixels s.caps.pmem = true ∧
  ∀ d, packDepth h.kind = some d → s.inLen.toNat - rp = ceilDiv h.pixels (lanesPerByte d)

/-! ### Operands by shape -/

/-- The three deltas of a relative version 4 block (R140 to R144). -/
def deltaOf : Instr → Option (Int × Int × Int)
  | .small dr dg db => some (dr, dg, db)
  | .inter dr dg db => some (dr, dg, db)
  | .bigr dr dg db => some (dr, dg, db)
  | .bigg dr dg db => some (dr, dg, db)
  | .bigb dr dg db => some (dr, dg, db)
  | _ => none

/-- The record kind, the depth and the lanes of a packed byte, first index first (R69). -/
def packOf : Instr → Option (RecordKind × Nat × List Nat)
  | .pack1 a b c d e f g h =>
    some (.pack1, 1, [a.toNat, b.toNat, c.toNat, d.toNat, e.toNat, f.toNat, g.toNat, h.toNat])
  | .pack2 a b c d => some (.pack2, 2, [a.toNat, b.toNat, c.toNat, d.toNat])
  | .pack4 a b => some (.pack4, 4, [a.toNat, b.toNat])
  | _ => none

/-- The rows of the stream selection (R64), with the run-length flag as it is requested: at depths 1, 2 and 4 it counts
as 0 (R186). -/
abbrev Selects (version depth : Byte) (rle : BitVec 1) (kind : RecordKind) : Prop :=
  (version = 1 ∧ kind = .pix) ∨ (version = 2 ∧ kind = .run) ∨ (version = 4 ∧ kind = .delta) ∨
  (version = 3 ∧
    ((depth = 24 ∧ rle = 0 ∧ kind = .pix) ∨ (depth = 24 ∧ rle = 1 ∧ kind = .run) ∨
      (depth = 8 ∧ rle = 0 ∧ kind = .idx) ∨ (depth = 8 ∧ rle = 1 ∧ kind = .runi) ∨
      (depth = 4 ∧ kind = .pack4) ∨ (depth = 2 ∧ kind = .pack2) ∨ (depth = 1 ∧ kind = .pack1)))

/-- The palette entries before `j` are written and none of them is `p`: the scans of R108 and R110 come to entry `j`. -/
abbrev ScanReaches (j : Nat) (p : Pixel) (s : State) : Prop :=
  j < s.palSize.toNat ∧ ∀ i < j, s.pal.read i ≠ none ∧ s.pal.read i ≠ some p

/-! ### Frames -/

/-- Everything but `PMEM` and the working registers is unchanged: what a record of a pixel stream leaves alone (R10,
R40). -/
structure StreamFrame (s t : State) : Prop where
  status : t.status = s.status
  err : t.err = s.err
  version : t.version = s.version
  depth : t.depth = s.depth
  rle : t.rle = s.rle
  width : t.width = s.width
  height : t.height = s.height
  inLen : t.inLen = s.inLen
  outLen : t.outLen = s.outLen
  hdrLen : t.hdrLen = s.hdrLen
  palSize : t.palSize = s.palSize
  pal : ∀ i, t.pal.read i = s.pal.read i
  ibuf : ∀ a, t.ibuf.read a = s.ibuf.read a
  obuf : ∀ a, t.obuf.read a = s.obuf.read a
  job : t.job = s.job
  caps : t.caps = s.caps
  host : t.host = s.host
  resp : t.resp = s.resp
  draw : t.draw = s.draw

/-- Every memory reads as before. -/
structure MemoriesKept (s t : State) : Prop where
  pal : ∀ i, t.pal.read i = s.pal.read i
  ibuf : ∀ a, t.ibuf.read a = s.ibuf.read a
  obuf : ∀ a, t.obuf.read a = s.obuf.read a
  pmem : ∀ i, t.pmem.read i = s.pmem.read i

/-- The configuration registers, `IN_LEN`, the result registers `OUT_LEN` and `HDR_LEN`, and the model's own fields are
unchanged. -/
structure RegistersKept (s t : State) : Prop where
  version : t.version = s.version
  depth : t.depth = s.depth
  rle : t.rle = s.rle
  width : t.width = s.width
  height : t.height = s.height
  inLen : t.inLen = s.inLen
  outLen : t.outLen = s.outLen
  hdrLen : t.hdrLen = s.hdrLen
  caps : t.caps = s.caps
  host : t.host = s.host
  resp : t.resp = s.resp
  draw : t.draw = s.draw

/-- What a header line leaves alone: everything but `PAL_SIZE`, `RP` and the phase of the command. -/
structure HeaderFrame (s t : State) : Prop where
  status : t.status = s.status
  err : t.err = s.err
  registers : RegistersKept s t
  memories : MemoriesKept s t

/-- `PMEM` after the pixels `ps` were stored from `PIX` on: those cells hold them, every other cell reads as before. -/
def PixelsStored (s t : State) (ps : List Pixel) : Prop :=
  ∀ i, t.pmem.read i =
    if s.work.pix ≤ i ∧ i < s.work.pix + ps.length then ps[i - s.work.pix]? else s.pmem.read i

/-! ### Invariants -/

/-- Every listed cell of a memory exists (R53, R57). -/
def Memory.inside {α : Type} (m : Memory α) (cap : Option Nat) : Prop := ∀ a ∈ m.map Prod.fst, fits (a + 1) cap = true

/-- The four memories are in canonical form (log 8). -/
structure CanonicalMemories (s : State) : Prop where
  ibuf : s.ibuf.wf
  obuf : s.obuf.wf
  pmem : s.pmem.wf
  pal : s.pal.wf

/-- `STATUS`, `ERR` and the command in progress agree (R12 to R14, R253). -/
structure ControlInv (s : State) : Prop where
  /-- a command is in progress exactly while `BUSY` -/
  busy_iff : s.status = .busy ↔ s.job ≠ .none
  /-- `ERR.code` is 0 exactly while the state is not `ERROR` (R14) -/
  err_iff : s.err = .none ↔ s.status ≠ .error
  /-- `IndexOutOfBounds` is never in `ERR.code` (R250, R253) -/
  err_kind : s.err ≠ .indexOutOfBounds

/-- The first `n` entries of `PAL` hold a value. -/
def palWritten (s : State) (n : Nat) : Prop := ∀ j < n, s.pal.read j ≠ none

/-- Every written pixel among the first `n` of `PMEM` is a valid palette entry (R108). -/
def palCovers (s : State) (n : Nat) : Prop :=
  ∀ j < n, ∀ p, s.pmem.read j = some p → ∃ q < s.palSize.toNat, s.pal.read q = some p

/-- A header that `ParseHeader` accepts (R213 to R217). -/
def legalHdr (h : Hdr) : Prop :=
  streamKind h.version h.depth h.rle = some h.kind ∧ h.k ≤ 256 ∧
  if h.version = 3 then legalHdr3 h.headerLen.toNat h.depth h.rle ∧ h.k = paletteEntries h.headerLen h.depth
  else h.headerLen = 12 ∧ h.depth = 0 ∧ h.rle = 0 ∧ h.k = 0

/-- The configuration an `ENC` past its first checks runs with (R181, R196). -/
def legalEnc (kind : RecordKind) (s : State) : Prop :=
  legalConfig s.version s.depth ∧ fits (pixelCount s) s.caps.pmem = true ∧
  streamKind s.version s.depth (effectiveRle s.depth s.rle) = some kind

/-- No pixel has been encoded: the working registers of the encoder are as R28 leaves them. -/
def freshEnc (s : State) : Prop :=
  s.work.pix = 0 ∧ s.work.runCnt = 0 ∧ s.work.acc = 0 ∧ s.work.accN = 0 ∧ s.work.prev = Pixel.black

/-- The palette an `ENC` has built (R108), if it needs one. -/
def builtPalette (s : State) : Prop :=
  usesPalette s.version s.depth →
    s.palSize.toNat ≤ 2 ^ s.depth.toNat ∧ palWritten s s.palSize.toNat ∧ palCovers s (pixelCount s)

/-- What holds in each phase of a command. -/
def JobInv (s : State) : Prop :=
  match s.job with
  | .none => True
  | .decHeader => s.work.rp = 0 ∧ s.work.pix = 0 ∧ s.work.prev = Pixel.black
  | .decPalette h i =>
    legalHdr h ∧ i < h.k ∧ s.work.rp = 14 + 3 * i ∧ h.headerLen.toNat = 14 + 3 * h.k ∧
    h.headerLen.toNat ≤ s.inLen.toNat ∧ s.work.pix = 0 ∧ s.work.prev = Pixel.black ∧
    s.palSize.toNat = h.k ∧ palWritten s i
  | .decStream h =>
    legalHdr h ∧ fits h.pixels s.caps.pmem = true ∧ s.work.pix ≤ h.pixels ∧ s.work.rp ≤ s.inLen.toNat ∧
    h.headerLen.toNat ≤ s.work.rp ∧ s.palSize.toNat = h.k ∧ palWritten s h.k
  | .encStart => freshEnc s ∧ s.work.wp = 0
  | .encPalette kind i =>
    legalEnc kind s ∧ usesPalette s.version s.depth ∧ freshEnc s ∧ s.work.wp = 0 ∧ i ≤ pixelCount s ∧
    s.palSize.toNat ≤ 2 ^ s.depth.toNat ∧ palWritten s s.palSize.toNat ∧ palCovers s i
  | .encHeader kind => legalEnc kind s ∧ freshEnc s ∧ s.work.wp = 0 ∧ builtPalette s
  | .encPalOut kind i =>
    legalEnc kind s ∧ freshEnc s ∧ builtPalette s ∧ i ≤ entryCount s ∧
    s.work.wp + 3 * entryCount s = headerLength s + 3 * i ∧ fits s.work.wp s.caps.obuf = true
  | .encStream kind =>
    legalEnc kind s ∧ builtPalette s ∧ s.work.pix ≤ pixelCount s ∧ headerLength s ≤ s.work.wp ∧
    fits s.work.wp s.caps.obuf = true ∧ (∀ d, packDepth kind = some d → s.work.accN.toNat < lanesPerByte d)

/-- The legal states: what reset establishes and every step keeps. -/
structure EngineInv (s : State) : Prop where
  control : ControlInv s
  memories : CanonicalMemories s
  ibufInside : s.ibuf.inside s.caps.ibuf
  obufInside : s.obuf.inside s.caps.obuf
  pmemInside : s.pmem.inside s.caps.pmem
  palInside : s.pal.inside (some 256)
  /-- `PAL_SIZE` is 0 to 256 (R11) -/
  palSize : s.palSize.toNat ≤ 256
  /-- `ACC_N` is 0 to 8 (R20) -/
  accN : s.work.accN.toNat ≤ 8
  /-- `IBUF_SIZE` is at least 12 (R5) -/
  ibufSize : ∀ c, s.caps.ibuf = some c → 12 ≤ c
  job : JobInv s

/-! ### Host duties -/

/-- The cells that the command in progress reads have been written: the host did R282 (a) and R283 (b) (R56). A `DEC`
whose `IN_LEN` exceeds `IBUF_SIZE` reads none (R57). -/
def Ready (s : State) : Prop :=
  match s.job with
  | .none => True
  | .decHeader => fits s.inLen.toNat s.caps.ibuf = true → ∀ a < s.inLen.toNat, s.ibuf.read a ≠ none
  | .decPalette _ _ => ∀ a < s.inLen.toNat, s.ibuf.read a ≠ none
  | .decStream _ => ∀ a < s.inLen.toNat, s.ibuf.read a ≠ none
  | .encStart => ∀ i < pixelCount s, s.pmem.read i ≠ none
  | .encPalette _ _ => ∀ i < pixelCount s, s.pmem.read i ≠ none
  | .encHeader _ => ∀ i < pixelCount s, s.pmem.read i ≠ none
  | .encPalOut _ _ => ∀ i < pixelCount s, s.pmem.read i ≠ none
  | .encStream _ => ∀ i < pixelCount s, s.pmem.read i ≠ none

/-! ### What a finished command delivers -/

/-- A successful `DEC` delivered `d` (R233): the registers, the image in `PMEM`, the palette in `PAL`. -/
def DecDelivered (d : Decoded) (t : State) : Prop :=
  t.status = .done ∧ t.err = .none ∧ t.version = d.hdr.version ∧ t.width = d.hdr.width ∧ t.height = d.hdr.height ∧
  t.hdrLen = d.hdr.headerLen ∧ t.depth = d.hdr.depth ∧ t.rle.toNat = d.hdr.rle.toNat ∧
  t.palSize.toNat = d.pal.length ∧ t.pmem.readRange 0 d.hdr.pixels = some d.pixels ∧
  t.pal.readRange 0 d.pal.length = some d.pal

/-- A successful `ENC` delivered `r` (R197): the file in `OBUF`, its length where 32 bits hold it, the header length,
the palette. -/
def EncDelivered (c : EncConfig) (r : Encoded) (t : State) : Prop :=
  t.status = .done ∧ t.err = .none ∧ t.obuf.readRange 0 r.file.length = some r.file ∧
  (r.file.length < 2 ^ 32 → t.outLen.toNat = r.file.length) ∧
  t.hdrLen.toNat = (if c.version = 3 then 14 + 3 * r.pal.length else 12) ∧
  t.palSize.toNat = r.pal.length ∧ t.pal.readRange 0 r.pal.length = some r.pal

end Sys2Proof.Machine
end

