-- ==== Sys2Proof/Certificates/Slice0/Obligations.lean ====
section
/-! DEFINITION. The statements for the provers. Each docstring names the rules it formalises and, where a clause is the
model's choice, the log entry. -/

open Sys2Proof Sys2Proof.Machine

/-! ### Encoding -/

/-- Decoding what was encoded gives the instruction back, whatever follows it (R61 to R83). -/
def Obligations.DecodeEncode : Prop :=
  ∀ (i : Instr) (rest : List Byte), WellFormed i → decode (ctxOf i) (encode i ++ rest) = .ok (i, rest)

/-- Outside `CMD`, what was decoded encodes to the very bytes that were read, so no bit is dropped; and every version 4
block that is decoded is well formed (R91). -/
def Obligations.EncodeDecode : Prop :=
  ∀ (c : Ctx) (bs rest : List Byte) (i : Instr), c ≠ .cmd → decode c bs = .ok (i, rest) →
    bs = encode i ++ rest ∧ (c = .stream .delta → WellFormed i)

/-- The first byte of a version 4 block selects its kind and its length, and no later byte takes part (R84, R85). -/
def Obligations.DeltaFirstByte : Prop :=
  ∀ (b0 b1 b2 b3 : Byte) (u : List Byte),
    (b0.toNat ≤ 0x3F → deltaLen b0 = 1 ∧
      ∃ dr dg db, decodeDelta (b0 :: u) = .ok (.small dr dg db, u)) ∧
    (0x40 ≤ b0.toNat → b0.toNat ≤ 0x7F → deltaLen b0 = 2 ∧
      ∃ dr dg db, decodeDelta (b0 :: b1 :: u) = .ok (.inter dr dg db, u)) ∧
    (0x80 ≤ b0.toNat → b0.toNat ≤ 0x8F → deltaLen b0 = 3 ∧
      ∃ dr dg db, decodeDelta (b0 :: b1 :: b2 :: u) = .ok (.bigr dr dg db, u)) ∧
    (0x90 ≤ b0.toNat → b0.toNat ≤ 0x9F → deltaLen b0 = 3 ∧
      ∃ dr dg db, decodeDelta (b0 :: b1 :: b2 :: u) = .ok (.bigg dr dg db, u)) ∧
    (0xA0 ≤ b0.toNat → b0.toNat ≤ 0xAF → deltaLen b0 = 3 ∧
      ∃ dr dg db, decodeDelta (b0 :: b1 :: b2 :: u) = .ok (.bigb dr dg db, u)) ∧
    (0xB0 ≤ b0.toNat → b0.toNat ≤ 0xFE → decodeDelta (b0 :: u) = .ok (.reservedV4 b0, u)) ∧
    (b0 = 0xFF → deltaLen b0 = 4 ∧ decodeDelta (b0 :: b1 :: b2 :: b3 :: u) = .ok (.new b1 b2 b3, u))

/-- A few words written out from the layouts decode to the instruction they stand for (examples of R133 to R138, R41). -/
def Obligations.SampleWords : Prop :=
  decode (.stream .delta) [0x32] = .ok (.small 1 (-2) 0, []) ∧
  decode (.stream .delta) [0x6A, 0x31] = .ok (.inter 5 10 3, []) ∧
  decode (.stream .delta) [0x88, 0xA5, 0x96] = .ok (.bigr 10 0 0, []) ∧
  decode (.stream .delta) [0x9E, 0x40, 0xBF] = .ok (.bigg 70 100 131, []) ∧
  decode (.stream .delta) [0xAF, 0xDB, 0xF9] = .ok (.bigb 140 150 125, []) ∧
  decode (.stream .delta) [0xFF, 0x05, 0x06, 0x07] = .ok (.new 5 6 7, []) ∧
  decode (.stream .pack2) [0x6C] = .ok (.pack2 1 2 3 0, []) ∧
  decode .header [0x55, 0x4C, 0x42, 0x4D, 0x50, 1, 0x0C, 0, 0x2C, 1, 2, 0] = .ok (.hdr12 1 300 2, [])

/-- The 16-bit header fields are little-endian at offsets 6, 8 and 10 of both header formats (R71). -/
def Obligations.HeaderFields : Prop :=
  ∀ (v l0 l1 w0 w1 h0 h1 d f : Byte) (rest : List Byte),
    (v = 1 ∨ v = 2 ∨ v = 4 → l0.toNat + 256 * l1.toNat = 12 →
      ∃ w h : Half, w.toNat = w0.toNat + 256 * w1.toNat ∧ h.toNat = h0.toNat + 256 * h1.toNat ∧
        decodeHeader (magic ++ [v, l0, l1, w0, w1, h0, h1] ++ rest) = .ok (.hdr12 v w h, rest)) ∧
    ∃ hl w h : Half, hl.toNat = l0.toNat + 256 * l1.toNat ∧ w.toNat = w0.toNat + 256 * w1.toNat ∧
      h.toNat = h0.toNat + 256 * h1.toNat ∧
      decodeHeader (magic ++ [3, l0, l1, w0, w1, h0, h1, d, f] ++ rest) = .ok (.hdr3 hl w h d f, rest)

/-- The fields of a `BIGx` block that cross a byte boundary, in both directions, with the rule's own shifts and masks
(R72): `P`, `S1`, `S2` of any block the decoder reads under the three tags, and the bytes of any block from them. The
deltas they stand for are those of R82. -/
def Obligations.BigFields : Prop :=
  (∀ (b0 b1 b2 : Byte) (u : List Byte) (P S1 S2 : Nat), P = ((b0.toNat &&& 0xF) <<< 4) ||| (b1.toNat >>> 4) →
    S1 = ((b1.toNat &&& 0xF) <<< 2) ||| (b2.toNat >>> 6) → S2 = b2.toNat &&& 0x3F →
    (b0.toNat >>> 4 = 8 → ∃ dr dg db, decodeDelta (b0 :: b1 :: b2 :: u) = .ok (.bigr dr dg db, u) ∧
      dr + 128 = P ∧ (dg - dr) + 32 = S1 ∧ (db - dr) + 32 = S2) ∧
    (b0.toNat >>> 4 = 9 → ∃ dr dg db, decodeDelta (b0 :: b1 :: b2 :: u) = .ok (.bigg dr dg db, u) ∧
      dg + 128 = P ∧ (dr - dg) + 32 = S1 ∧ (db - dg) + 32 = S2) ∧
    (b0.toNat >>> 4 = 10 → ∃ dr dg db, decodeDelta (b0 :: b1 :: b2 :: u) = .ok (.bigb dr dg db, u) ∧
      db + 128 = P ∧ (dr - db) + 32 = S1 ∧ (dg - db) + 32 = S2)) ∧
  ∀ (i : Instr) (tag : Nat) (dr dg db p a b : Int) (P S1 S2 : Nat), WellFormed i →
    ((i = .bigr dr dg db ∧ tag = 8 ∧ p = dr ∧ a = dg ∧ b = db) ∨
      (i = .bigg dr dg db ∧ tag = 9 ∧ p = dg ∧ a = dr ∧ b = db) ∨
      (i = .bigb dr dg db ∧ tag = 10 ∧ p = db ∧ a = dr ∧ b = dg)) →
    p + 128 = P → (a - p) + 32 = S1 → (b - p) + 32 = S2 →
    encode i =
      [BitVec.ofNat 8 ((tag <<< 4) ||| (P >>> 4)), BitVec.ofNat 8 (((P &&& 0xF) <<< 4) ||| (S1 >>> 2)),
        BitVec.ofNat 8 (((S1 &&& 0x3) <<< 6) ||| S2)]

/-! ### Function level -/

/-- The block chosen for a pixel decodes, after the same previous pixel, to that pixel; hence so does a whole version 4
stream (R149). -/
def Obligations.BlockInverse : Prop :=
  (∀ prev cur : Pixel,
    decodeDelta (encode (blockFor prev cur)) = .ok (blockFor prev cur, []) ∧
    blockPixel prev (blockFor prev cur) = .ok cur) ∧
  ∀ px : List Pixel, deltaDec Pixel.black px.length (deltaEnc Pixel.black px) = .ok px

/-- Unpacking what was packed gives the indices back; and packing what was unpacked gives the stream back only if its
length is right and its padding is 0 (R125; the second part with the indices all present, as R123 has it). -/
def Obligations.PackRoundTrip : Prop :=
  ∀ d : Nat, d = 1 ∨ d = 2 ∨ d = 4 →
    (∀ idx : List Nat, (∀ i ∈ idx, i < 2 ^ d) → unpack d idx.length (pack d idx) = idx) ∧
    ∀ (S : List Byte) (n : Nat), n ≤ S.length * lanesPerByte d → pack d (unpack d n S) = S →
      S.length = ceilDiv n (lanesPerByte d) ∧
      (n % lanesPerByte d ≠ 0 → ∀ b ∈ S.getLast?, b.toNat % 2 ^ (d * (lanesPerByte d - n % lanesPerByte d)) = 0)

/-- Run-length decoding of what was run-length encoded gives the symbols back, as pixels, for both record formats
(R168). -/
def Obligations.RunRoundTrip : Prop :=
  (∀ px : List Pixel,
    rleDec 4 runValue px.length px.length ((rleEnc px).flatMap fun x => byteOf x.1 :: pixelBytes x.2) = .ok px) ∧
  ∀ (pal : List Pixel) (sym : List Nat) (px : List Pixel), pal.length ≤ 256 → lookupAll pal sym = .ok px →
    rleDec 2 (runiValue pal) sym.length sym.length ((rleEnc sym).flatMap fun x => [byteOf x.1, byteOf x.2]) = .ok px

/-- The Palette Builder gives the distinct pixels in order of first occurrence, unless there are more than `cap`
(R108, R109). -/
def Obligations.PaletteBuilder : Prop :=
  ∀ (cap : Nat) (px : List Pixel),
    buildPalette cap px [] =
      if px.eraseDups.length ≤ cap then .ok px.eraseDups else .error .paletteTooLarge

/-- In the index sequence of an image the first index is 0 and each new maximum exceeds the previous one by exactly 1
(R111). -/
def Obligations.IndexSequence : Prop :=
  ∀ (cap : Nat) (px pal : List Pixel) (idx : List Nat), buildPalette cap px [] = .ok pal → idx = px.map (indexIn pal) →
    (∀ h : 0 < idx.length, idx[0] = 0) ∧
    ∀ (i : Nat) (hi : i < idx.length), 0 < i → (∀ (j : Nat) (hj : j < i), idx[j] < idx[i]) →
      ∃ (j : Nat) (hj : j < i), idx[i] = idx[j] + 1

/-- Every valid image whose distinct pixels fit the chosen depth encodes, in every configuration, to a file that decodes
to it (R199). -/
def Obligations.RoundTrip : Prop :=
  ∀ (c : EncConfig) (img : Image), img.pixels.length = img.width.toNat * img.height.toNat →
    legalConfig c.version c.depth →
    (usesPalette c.version c.depth → (uniquePixels img).length ≤ 2 ^ c.depth.toNat) →
    ∃ B, encodeImage c img = .ok B ∧ decodeFile B = .ok img

/-- A version 3 file decodes to its image whatever the order of its palette, as long as every pixel is in it
(R107, R87 d). -/
def Obligations.AnyPaletteOrder : Prop :=
  ∀ (c : EncConfig) (kind : RecordKind) (w h : Half) (pal px : List Pixel),
    usesPalette c.version c.depth → legalConfig c.version c.depth → Selects c.version c.depth c.rle kind →
    pal.length ≤ 2 ^ c.depth.toNat → (∀ p ∈ px, p ∈ pal) → px.length = w.toNat * h.toNat →
    decodeFile (fileWith c kind w h pal px) = .ok ⟨w, h, px⟩

/-- The size of the file, the header-length field and, in version 3, the depth and flag bytes, by configuration; the
flag is forced to 0 at depths 1, 2 and 4 (R64, R184, R186, R192). -/
def Obligations.FileSize : Prop :=
  ∀ (caps : Caps) (c : EncConfig) (w h : Half) (px : List Pixel) (r : Encoded) (kind : RecordKind),
    encodeWithin caps c w h px = .ok r → Selects c.version c.depth c.rle kind →
    ∃ hdr, hdr = (if c.version = 3 then 14 + 3 * r.pal.length else 12) ∧
      (le16 (r.file.getD 6 0) (r.file.getD 7 0)).toNat = hdr ∧
      (c.version = 3 → r.file.getD 12 0 = c.depth ∧
        r.file.getD 13 0 = if (c.depth = 8 ∨ c.depth = 24) ∧ c.rle = 1 then 1 else 0) ∧
      match kind with
      | .pix => r.file.length = hdr + 3 * px.length
      | .run => r.file.length = hdr + 4 * (rleEnc px).length
      | .idx => r.file.length = hdr + px.length
      | .runi => r.file.length = hdr + 2 * (rleEnc (px.map (indexIn r.pal))).length
      | .pack1 => r.file.length = hdr + ceilDiv px.length 8
      | .pack2 => r.file.length = hdr + ceilDiv px.length 4
      | .pack4 => r.file.length = hdr + ceilDiv px.length 2
      | .delta => hdr + px.length ≤ r.file.length ∧ r.file.length ≤ hdr + 4 * px.length

/-! ### A step runs the decoded instruction -/

/-- When the bytes at `RP` decode to an instruction in the open context, the step is that instruction's meaning, also
behind a `tick` of the host (R47, R220; the list of host accesses is log 1, the step's size log 16). -/
def Obligations.StepRunsDecoded : Prop :=
  ∀ (s : State) (c : Ctx) (bs rest : List Byte) (i : Instr), openCtx s = some c → fetchRecord c s = .bytes bs →
    decode c bs = .ok (i, rest) →
    (s.host = [] → step s = exec i s) ∧
    ∀ ops, s.host = .tick :: ops → step s = exec i (setHost ops s)

/-- A well-formed instruction whose encoded bytes stand at `RP`, below `IN_LEN`, in its own context, is what the step
runs (R47, R60, R84). -/
def Obligations.StepRunsEncoded : Prop :=
  ∀ (s : State) (i : Instr), WellFormed i → openCtx s = some (ctxOf i) → s.host = [] →
    s.work.rp + (encode i).length ≤ s.inLen.toNat →
    s.ibuf.readRange s.work.rp (encode i).length = some (encode i) → step s = exec i s

/-- A write to `CMD` runs the command of its low two bits, in any state (R11, R12). -/
def Obligations.StepRunsCommand : Prop :=
  ∀ (s : State) (v : Word) (ops : List HostOp) (i : Instr), s.host = .writeReg 0x00 v :: ops →
    ((v.toNat % 4 = 0 ∧ i = .nop) ∨ (v.toNat % 4 = 1 ∧ i = .enc) ∨ (v.toNat % 4 = 2 ∧ i = .dec) ∨
      (v.toNat % 4 = 3 ∧ i = .clr)) →
    step s = exec i (answer .ack (setHost ops s))

/-! ### Records: result, completion and frame -/

/-- `PIX` stores its pixel at `PMEM[PIX]` and advances `RP` by 3 and `PIX` by 1; nothing else changes (R22, R65, R221). -/
def Obligations.PixResult : Prop :=
  ∀ (s : State) (h : Hdr) (r g b : Byte), InStream .pix h s →
    ∃ t, exec (.pix r g b) s = .next t ∧ StreamFrame s t ∧ PixelsStored s t [⟨r, g, b⟩] ∧
      t.work = { s.work with pix := s.work.pix + 1, rp := s.work.rp + 3 }

/-- `IDX` stores the palette entry of a valid index and advances both cursors by 1; nothing else changes (R22, R67,
R112, R224). -/
def Obligations.IdxResult : Prop :=
  ∀ (s : State) (h : Hdr) (i : Byte) (p : Pixel), InStream .idx h s → i.toNat < s.palSize.toNat →
    s.pal.read i.toNat = some p →
    ∃ t, exec (.idx i) s = .next t ∧ StreamFrame s t ∧ PixelsStored s t [p] ∧
      t.work = { s.work with pix := s.work.pix + 1, rp := s.work.rp + 1 }

/-- `RUN` stores `count` copies of its pixel from `PMEM[PIX]` on; nothing else changes (R22, R66, R165, R166). `RUN_CNT`
is not used (log 23). -/
def Obligations.RunResult : Prop :=
  ∀ (s : State) (h : Hdr) (n r g b : Byte), InStream .run h s → n ≠ 0 → s.work.pix + n.toNat ≤ h.pixels →
    ∃ t, exec (.run n r g b) s = .next t ∧ StreamFrame s t ∧
      PixelsStored s t (List.replicate n.toNat ⟨r, g, b⟩) ∧
      t.work = { s.work with pix := s.work.pix + n.toNat, rp := s.work.rp + 4 }

/-- `RUNI` stores `count` copies of the palette entry of a valid index; nothing else changes (R22, R68, R112, R167).
`RUN_CNT` is not used (log 23). -/
def Obligations.RuniResult : Prop :=
  ∀ (s : State) (h : Hdr) (n i : Byte) (p : Pixel), InStream .runi h s → n ≠ 0 → i.toNat < s.palSize.toNat →
    s.pal.read i.toNat = some p → s.work.pix + n.toNat ≤ h.pixels →
    ∃ t, exec (.runi n i) s = .next t ∧ StreamFrame s t ∧ PixelsStored s t (List.replicate n.toNat p) ∧
      t.work = { s.work with pix := s.work.pix + n.toNat, rp := s.work.rp + 2 }

/-- `PACK1`, `PACK2` and `PACK4` store the palette entries of their lanes, first lane first, up to the `N`-th pixel;
nothing else changes but `ACC` and `ACC_N` (R22, R69, R123, R124, R225; what `ACC` and `ACC_N` hold is log 22). -/
def Obligations.PackResult : Prop :=
  ∀ (s : State) (h : Hdr) (i : Instr) (kind : RecordKind) (d : Nat) (lanes taken : List Nat) (ps : List Pixel),
    packOf i = some (kind, d, lanes) → InStream kind h s → taken = lanes.take (h.pixels - s.work.pix) →
    List.Forall₂ (fun j p => j < s.palSize.toNat ∧ s.pal.read j = some p) taken ps →
    ∃ t, exec i s = .next t ∧ StreamFrame s t ∧ PixelsStored s t ps ∧
      t.work = { s.work with
        pix := s.work.pix + taken.length, rp := s.work.rp + 1,
        acc := byteOf (packByte d lanes), accN := BitVec.ofNat 4 taken.length }

/-- `SMALL`, `INTER`, `BIGR`, `BIGG` and `BIGB` add their deltas to the previous pixel, store the sum, which becomes the
previous pixel, and advance `RP` by their own length; nothing else changes (R18, R22, R140 to R144). -/
def Obligations.DeltaResult : Prop :=
  ∀ (s : State) (h : Hdr) (i : Instr) (dr dg db : Int) (cur : Pixel), deltaOf i = some (dr, dg, db) →
    InStream .delta h s → chan cur.r = chan s.work.prev.r + dr → chan cur.g = chan s.work.prev.g + dg →
    chan cur.b = chan s.work.prev.b + db →
    ∃ t, exec i s = .next t ∧ StreamFrame s t ∧ PixelsStored s t [cur] ∧
      t.work = { s.work with prev := cur, pix := s.work.pix + 1, rp := s.work.rp + (encode i).length }

/-- `NEW` stores its absolute pixel, which becomes the previous pixel; nothing else changes (R22, R83, R145). -/
def Obligations.NewResult : Prop :=
  ∀ (s : State) (h : Hdr) (r g b : Byte), InStream .delta h s →
    ∃ t, exec (.new r g b) s = .next t ∧ StreamFrame s t ∧ PixelsStored s t [⟨r, g, b⟩] ∧
      t.work = { s.work with prev := ⟨r, g, b⟩, pix := s.work.pix + 1, rp := s.work.rp + 4 }

/-- A reserved first byte where a block is expected raises `FormatError`, from the state before it, so no pixel is
produced: as an instruction, and as a step on the byte at `RP` (R146). -/
def Obligations.ReservedResult : Prop :=
  ∀ (s : State) (h : Hdr) (b0 : Byte), InStream .delta h s → 0xB0 ≤ b0.toNat → b0.toNat ≤ 0xFE →
    exec (.reservedV4 b0) s = .next (raise .formatError s) ∧
    (s.host = [] → s.work.rp < s.inLen.toNat → s.ibuf.read s.work.rp = some b0 →
      step s = .next (raise .formatError s))

/-! ### Headers and palette entries -/

/-- `HDR12` opens the stream that its version selects, with `RP` at byte 12 of the file and no palette; nothing else
changes (R64, R211 to R213, R216, R217, R220). -/
def Obligations.Hdr12Result : Prop :=
  ∀ (s : State) (v : Byte) (w h : Half) (kind : RecordKind) (hd : Hdr), s.job = .decHeader →
    ((v = 1 ∧ kind = .pix) ∨ (v = 2 ∧ kind = .run) ∨ (v = 4 ∧ kind = .delta)) → 12 ≤ s.inLen.toNat →
    hd = { version := v, headerLen := 12, width := w, height := h, depth := 0, rle := 0, k := 0, kind := kind } →
    StreamOpens hd (s.work.rp + 12) s →
    ∃ t, exec (.hdr12 v w h) s = .next t ∧ HeaderFrame s t ∧ t.job = .decStream hd ∧ t.palSize = 0 ∧
      t.work = { s.work with rp := s.work.rp + 12 }

/-- `HDR3` with legal fields selects its record kind by depth and flag, sets `PAL_SIZE` and goes to palette entry 0, or
opens the stream when there is no entry; nothing else changes (R62 to R64, R214 to R217). `PAL_SIZE` holds `k` from here
on (log 17). -/
def Obligations.Hdr3Result : Prop :=
  ∀ (s : State) (hl w h : Half) (d f : Byte) (kind : RecordKind) (k : Nat) (hd : Hdr), s.job = .decHeader →
    legalHdr3 hl.toNat d f → hl.toNat ≤ s.inLen.toNat →
    ((d = 24 ∧ f = 0 ∧ kind = .pix) ∨ (d = 24 ∧ f = 1 ∧ kind = .run) ∨ (d = 8 ∧ f = 0 ∧ kind = .idx) ∨
      (d = 8 ∧ f = 1 ∧ kind = .runi) ∨ (d = 4 ∧ f = 0 ∧ kind = .pack4) ∨ (d = 2 ∧ f = 0 ∧ kind = .pack2) ∨
      (d = 1 ∧ f = 0 ∧ kind = .pack1)) →
    k = (hl.toNat - 14) / 3 →
    hd = { version := 3, headerLen := hl, width := w, height := h, depth := d, rle := f, k := k, kind := kind } →
    (k = 0 → StreamOpens hd (s.work.rp + 14) s) →
    ∃ t, exec (.hdr3 hl w h d f) s = .next t ∧ HeaderFrame s t ∧
      t.job = (if k = 0 then .decStream hd else .decPalette hd 0) ∧ t.palSize.toNat = k ∧
      t.work = { s.work with rp := s.work.rp + 14 }

/-- `PAL` writes palette entry `i` and goes to the next one, or opens the stream after the last; no other entry and
nothing else changes (R42, R216, R220; one step for each entry is log 21). -/
def Obligations.PalResult : Prop :=
  ∀ (s : State) (r g b : Byte) (hd : Hdr) (i : Nat), s.job = .decPalette hd i →
    (hd.k ≤ i + 1 → StreamOpens hd (s.work.rp + 3) s) →
    ∃ t, exec (.pal r g b) s = .next t ∧ RegistersKept s t ∧ t.status = s.status ∧ t.err = s.err ∧
      t.palSize = s.palSize ∧ (∀ j, t.pal.read j = if j = i then some ⟨r, g, b⟩ else s.pal.read j) ∧
      (∀ a, t.ibuf.read a = s.ibuf.read a) ∧ (∀ a, t.obuf.read a = s.obuf.read a) ∧
      (∀ j, t.pmem.read j = s.pmem.read j) ∧
      t.job = (if i + 1 < hd.k then .decPalette hd (i + 1) else .decStream hd) ∧
      t.work = { s.work with rp := s.work.rp + 3 }

/-! ### Commands -/

/-- `NOP` does nothing, in any state; `CLR` outside `BUSY` sets the state to `IDLE` and the code to 0 and changes
nothing else; any command while `BUSY` is ignored (R12, R264). -/
def Obligations.NopClrResult : Prop :=
  ∀ s : State, exec .nop s = .next s ∧
    (s.status = .busy → exec .enc s = .next s ∧ exec .dec s = .next s ∧ exec .clr s = .next s) ∧
    (s.status ≠ .busy → ∃ t, exec .clr s = .next t ∧ t.status = .idle ∧ t.err = .none ∧
      t = { s with status := t.status, err := t.err })

/-- `ENC` and `DEC` outside `BUSY` start their command: `BUSY`, code 0, the working registers and cursors initialised;
nothing else changes (R12, R28). `RUN_VAL` is not among those initialised. -/
def Obligations.StartResult : Prop :=
  ∀ (s : State) (i : Instr) (j : Job), s.status ≠ .busy → ((i = .enc ∧ j = .encStart) ∨ (i = .dec ∧ j = .decHeader)) →
    ∃ t, exec i s = .next t ∧ t.status = .busy ∧ t.err = .none ∧ t.job = j ∧
      t.work.prev = ⟨0, 0, 0⟩ ∧ t.work.runCnt = 0 ∧ t.work.acc = 0 ∧ t.work.accN = 0 ∧ t.work.rp = 0 ∧
      t.work.wp = 0 ∧ t.work.pix = 0 ∧ t.work.runVal = s.work.runVal ∧
      RegistersKept s t ∧ MemoriesKept s t ∧ t.palSize = s.palSize

/-! ### Errors -/

/-- A delta block whose sum leaves 0 to 255 on some channel raises `ChannelOutOfRange`; nothing is stored and nothing
wraps (R101, R147). -/
def Obligations.ChannelRange : Prop :=
  ∀ (s : State) (h : Hdr) (i : Instr) (dr dg db : Int), deltaOf i = some (dr, dg, db) → InStream .delta h s →
    ¬ (isChannel (chan s.work.prev.r + dr) ∧ isChannel (chan s.work.prev.g + dg) ∧
      isChannel (chan s.work.prev.b + db)) →
    exec i s = .next (raise .channelOutOfRange s)

/-- A run record fails, in this order, on a count of 0, on an index outside the palette, on a run that passes the last
pixel (R165 to R167). -/
def Obligations.RunErrors : Prop :=
  ∀ (s : State) (h : Hdr) (n r g b i : Byte),
    (InStream .run h s →
      exec (.run 0 r g b) s = .next (raise .formatError s) ∧
      (n ≠ 0 → h.pixels < s.work.pix + n.toNat → exec (.run n r g b) s = .next (raise .pixelCountMismatch s))) ∧
    (InStream .runi h s →
      exec (.runi 0 i) s = .next (raise .formatError s) ∧
      (n ≠ 0 → s.palSize.toNat ≤ i.toNat → exec (.runi n i) s = .next (raise .formatError s)) ∧
      (n ≠ 0 → i.toNat < s.palSize.toNat → s.pal.read i.toNat ≠ none → h.pixels < s.work.pix + n.toNat →
        exec (.runi n i) s = .next (raise .pixelCountMismatch s)))

/-- An index at or above `PAL_SIZE` raises `FormatError`: in `IDX`, and in the first bad lane of a packed byte, where a
lane beyond the `N`-th pixel does not count (R112, R224, R225). -/
def Obligations.IndexErrors : Prop :=
  (∀ (s : State) (h : Hdr) (i : Byte), InStream .idx h s → s.palSize.toNat ≤ i.toNat →
    exec (.idx i) s = .next (raise .formatError s)) ∧
  ∀ (s : State) (h : Hdr) (i : Instr) (kind : RecordKind) (d : Nat) (lanes good : List Nat) (bad : Nat)
    (more : List Nat), packOf i = some (kind, d, lanes) → InStream kind h s →
    lanes.take (h.pixels - s.work.pix) = good ++ bad :: more →
    (∀ j ∈ good, j < s.palSize.toNat ∧ s.pal.read j ≠ none) → s.palSize.toNat ≤ bad →
    exec i s = .next (raise .formatError s)

/-- An `IN_LEN` beyond `IBUF_SIZE` raises `BufferOverflow` before anything is read (R57, R231, R261); a file whose header
fails one of the parser's tests raises `FormatError` (R210 to R215, R217). -/
def Obligations.HeaderErrors : Prop :=
  (∀ s : State, s.host = [] → s.job = .decHeader → (∃ c, s.caps.ibuf = some c ∧ c < s.inLen.toNat) →
    step s = .next (raise .bufferOverflow s)) ∧
  ∀ (s : State) (B : List Byte) (v : Byte), s.host = [] → openCtx s = some .header → s.work.rp = 0 →
    s.ibuf.readRange 0 s.inLen.toNat = some B → v = B.getD 5 0 →
    (B.length < 6 ∨ B.take 5 ≠ [0x55, 0x4C, 0x42, 0x4D, 0x50] ∨ ¬ (v = 1 ∨ v = 2 ∨ v = 3 ∨ v = 4) ∨
      (v ≠ 3 ∧ (B.length < 12 ∨ (le16 (B.getD 6 0) (B.getD 7 0)).toNat ≠ 12)) ∨
      (v = 3 ∧ (B.length < 14 ∨ ¬ legalHdr3 (le16 (B.getD 6 0) (B.getD 7 0)).toNat (B.getD 12 0) (B.getD 13 0) ∨
        B.length < (le16 (B.getD 6 0) (B.getD 7 0)).toNat))) →
    step s = .next (raise .formatError s)

/-- A file that ends where a record or a palette entry still needs bytes raises `PixelCountMismatch` in the stream and
`FormatError` before it (R47, R228). -/
def Obligations.FileEndsEarly : Prop :=
  ∀ (s : State) (c : Ctx), s.host = [] → openCtx s = some c →
    (s.inLen.toNat < s.work.rp + needBytes c ∨
      ∃ pre, s.ibuf.readRange s.work.rp (needBytes c) = some pre ∧ s.inLen.toNat < s.work.rp + recordLen c pre) →
    step s = .next (raise (if c = .header ∨ c = .palette then .formatError else .pixelCountMismatch) s)

/-- After the last pixel the file must be used up: then `DEC` delivers the parsed header in the registers and keeps the
image and the palette, else `PixelCountMismatch` (R228, R233). What `PMEM` and `PAL` hold beyond them is not said
(log 11). -/
def Obligations.StreamEnd : Prop :=
  ∀ (s : State) (h : Hdr), s.host = [] → s.job = .decStream h → h.pixels ≤ s.work.pix →
    (s.work.rp ≠ s.inLen.toNat → step s = .next (raise .pixelCountMismatch s)) ∧
    (s.work.rp = s.inLen.toNat → ∃ t, step s = .next t ∧ t.status = .done ∧ t.job = .none ∧
      t.version = h.version ∧ t.width = h.width ∧ t.height = h.height ∧ t.hdrLen = h.headerLen ∧
      t.depth = h.depth ∧ t.rle.toNat = h.rle.toNat % 2 ∧ t.palSize.toNat = h.k % 512 ∧
      t.outLen = s.outLen ∧ t.inLen = s.inLen ∧ (∀ a, t.ibuf.read a = s.ibuf.read a) ∧
      (∀ a, t.obuf.read a = s.obuf.read a) ∧ (∀ i < h.pixels, t.pmem.read i = s.pmem.read i) ∧
      ∀ i < h.k, t.pal.read i = s.pal.read i)

/-- The first step of `ENC`: `InvalidConfig`, then `BufferOverflow` of the pixel memory, else the command goes on, with
the record kind of its configuration and with `PAL_SIZE` set to 0 where a palette is to be built (R28, R64, R181, R186,
R196, R261). -/
def Obligations.EncChecks : Prop :=
  ∀ s : State, s.host = [] → s.job = .encStart →
    (¬ legalConfig s.version s.depth → step s = .next (raise .invalidConfig s)) ∧
    (legalConfig s.version s.depth → fits (pixelCount s) s.caps.pmem = false →
      step s = .next (raise .bufferOverflow s)) ∧
    (legalConfig s.version s.depth → fits (pixelCount s) s.caps.pmem = true →
      ∃ kind, Selects s.version s.depth s.rle kind ∧
        step s = .next (if s.version = 3 ∧ s.depth ≠ 24 then setJob (.encPalette kind 0) (setPalSize 0 s)
          else setJob (.encHeader kind) s))

/-- One pixel of the palette scan: a pixel already in the palette changes nothing, a new one is appended, and one too
many raises `PaletteTooLarge` (R108, R109; one step for each pixel is log 16). -/
def Obligations.PaletteScanStep : Prop :=
  ∀ (s : State) (kind : RecordKind) (i : Nat) (p : Pixel), s.host = [] → s.job = .encPalette kind i →
    i < pixelCount s → s.pmem.read i = some p → palWritten s s.palSize.toNat →
    ((∃ j < s.palSize.toNat, s.pal.read j = some p) → step s = .next (setJob (.encPalette kind (i + 1)) s)) ∧
    ((∀ j < s.palSize.toNat, s.pal.read j ≠ some p) →
      step s = .next (
        if 2 ^ s.depth.toNat ≤ s.palSize.toNat then raise .paletteTooLarge s
        else setJob (.encPalette kind (i + 1))
          (setPalSize (s.palSize.toNat + 1) (writePal s.palSize.toNat p s))))

/-- One pixel of the run-length encoder, for `RUN` over pixels and for `RUNI` over palette indices: the open run grows
below 255, else it is written as one record and a new run opens (R110, R160 to R162, R164). That an index stands in channel
`b` of `RUN_VAL` is log 7. -/
def Obligations.RunEncoderStep : Prop :=
  ∀ (s : State) (kind : RecordKind) (p v : Pixel) (record : List Byte), s.host = [] → s.job = .encStream kind →
    s.work.pix < pixelCount s → s.pmem.read s.work.pix = some p →
    ((kind = .run ∧ v = p ∧ record = [s.work.runCnt, s.work.runVal.r, s.work.runVal.g, s.work.runVal.b]) ∨
      (kind = .runi ∧ record = [s.work.runCnt, s.work.runVal.b] ∧
        ∃ j, ScanReaches j p s ∧ s.pal.read j = some p ∧ v = ⟨0, 0, BitVec.ofNat 8 j⟩)) →
    step s = .next (
      if s.work.runCnt ≠ 0 ∧ (v = s.work.runVal ∨ kind = .runi ∧ v.b = s.work.runVal.b) ∧ s.work.runCnt.toNat < 255 then
        nextPixel (setRun s.work.runVal (s.work.runCnt + 1) s)
      else if s.work.runCnt = 0 then nextPixel (setRun v 1 s)
      else if fits (s.work.wp + record.length) s.caps.obuf then nextPixel (setRun v 1 (emitBytes record s))
      else raise .bufferOverflow s)

/-- One index of the Bit Packer: it is or-ed into `ACC` at its lane, and the full byte is emitted (R122). -/
def Obligations.PackEncoderStep : Prop :=
  ∀ (s : State) (d i : Nat) (acc : Byte), d = 1 ∨ d = 2 ∨ d = 4 → i < 2 ^ d → s.work.accN.toNat < 8 / d →
    s.work.acc.toNat % 2 ^ (8 - d * s.work.accN.toNat) = 0 →
    acc = s.work.acc ||| (BitVec.ofNat 8 i <<< (d * (8 / d - 1 - s.work.accN.toNat))) →
    packStep d i s =
      if s.work.accN.toNat + 1 = 8 / d then
        if fits (s.work.wp + 1) s.caps.obuf then .ok (emitBytes [acc] (setAcc 0 0 s))
        else .error (.err .bufferOverflow)
      else .ok (setAcc acc (BitVec.ofNat 4 (s.work.accN.toNat + 1)) s)

/-- A record executed after the last pixel is left over and raises `PixelCountMismatch` (R148, R228); a header, palette
entry or record whose context is not open is refused by name (the model's choice, log 20); and no step ever refuses. -/
def Obligations.ContextOfRecords : Prop :=
  (∀ (s : State) (x : Refusal), step s ≠ .refused x) ∧
  ∀ (s : State) (i : Instr),
    (∀ h kind, ctxOf i = .stream kind → s.job = .decStream h → h.kind = kind → h.pixels ≤ s.work.pix →
      exec i s = .next (raise .pixelCountMismatch s)) ∧
    (ctxOf i ≠ .cmd → ¬ (ctxOf i = .header ∧ s.job = .decHeader) →
      (∀ hd k, ¬ (ctxOf i = .palette ∧ s.job = .decPalette hd k)) →
      (∀ h, ¬ (ctxOf i = .stream h.kind ∧ s.job = .decStream h)) →
      ∃ mnemonic, exec i s = .refused (.outOfContext mnemonic))

/-- A command that reads a cell that nothing has written has no defined result, which the model makes a fault: a byte of
the file, within a record's first bytes or beyond them; a pixel of the image, in the palette scan or in the stream; a
palette entry below `PAL_SIZE`, in a lookup of `IDX`, `RUNI` or `PACKd`, in the scans of the Palette Builder and the
indexer, or when the palette is written to the header (R56, R297; log 8). -/
def Obligations.UnwrittenCells : Prop :=
  ∀ s : State, s.host = [] →
    (∀ c, openCtx s = some c → s.work.rp + needBytes c ≤ s.inLen.toNat →
      s.ibuf.readRange s.work.rp (needBytes c) = none → step s = .fault (.unwritten .ibuf s.work.rp)) ∧
    (∀ c pre, openCtx s = some c → s.ibuf.readRange s.work.rp (needBytes c) = some pre →
      s.work.rp + needBytes c ≤ s.inLen.toNat → s.work.rp + recordLen c pre ≤ s.inLen.toNat →
      s.ibuf.readRange s.work.rp (recordLen c pre) = none → step s = .fault (.unwritten .ibuf s.work.rp)) ∧
    (∀ kind i, s.job = .encPalette kind i → i < pixelCount s → s.pmem.read i = none →
      step s = .fault (.unwritten .pmem i)) ∧
    (∀ kind i p j, s.job = .encPalette kind i → i < pixelCount s → s.pmem.read i = some p → ScanReaches j p s →
      s.pal.read j = none → step s = .fault (.unwritten .pal j)) ∧
    (∀ kind i, s.job = .encPalOut kind i → usesPalette s.version s.depth → i < s.palSize.toNat →
      s.pal.read i = none → step s = .fault (.unwritten .pal i)) ∧
    (∀ kind p j, s.job = .encStream kind → kind ∈ [RecordKind.idx, .runi, .pack1, .pack2, .pack4] →
      s.work.pix < pixelCount s → s.pmem.read s.work.pix = some p → ScanReaches j p s → s.pal.read j = none →
      step s = .fault (.unwritten .pal j)) ∧
    (∀ kind, s.job = .encStream kind → s.work.pix < pixelCount s → s.pmem.read s.work.pix = none →
      step s = .fault (.unwritten .pmem s.work.pix)) ∧
    (∀ h i, InStream .idx h s → i.toNat < s.palSize.toNat → s.pal.read i.toNat = none →
      exec (.idx i) s = .fault (.unwritten .pal i.toNat)) ∧
    (∀ h n i, InStream .runi h s → n ≠ 0 → i.toNat < s.palSize.toNat → s.pal.read i.toNat = none →
      exec (.runi n i) s = .fault (.unwritten .pal i.toNat)) ∧
    (∀ h i kind d lanes good bad more, packOf i = some (kind, d, lanes) → InStream kind h s →
      lanes.take (h.pixels - s.work.pix) = good ++ bad :: more →
      (∀ j ∈ good, j < s.palSize.toNat ∧ s.pal.read j ≠ none) → bad < s.palSize.toNat → s.pal.read bad = none →
      exec i s = .fault (.unwritten .pal bad))

/-- Taking an error: `ERROR` and the code are written, what the command only reads is unchanged; `DEC` leaves `OBUF` and
`OUT_LEN` alone, `ENC` leaves `PMEM` and the configuration registers alone (R262). -/
def Obligations.RaiseFrame : Prop :=
  ∀ (s t : State) (e : ErrKind), t = raise e s →
    t.status = .error ∧ t.err = e ∧ t.job = .none ∧ t.inLen = s.inLen ∧
    (∀ a, t.ibuf.read a = s.ibuf.read a) ∧
    (decoding s.job = true → t.outLen = s.outLen ∧ ∀ a, t.obuf.read a = s.obuf.read a) ∧
    (encoding s.job = true → t.version = s.version ∧ t.depth = s.depth ∧ t.rle = s.rle ∧ t.width = s.width ∧
      t.height = s.height ∧ ∀ i, t.pmem.read i = s.pmem.read i)

/-! ### Reset and the host port -/

/-- The state after reset has the values the spec gives; and in any state the engine does nothing until the host starts
a command, also behind a `tick` of the host (R27, R280; `tick` is log 1). `RUN_VAL` is not among the
values the spec gives (log 6). -/
def Obligations.ResetValues : Prop :=
  (∃ s, s = State.reset ∧ s.status = .idle ∧ s.err = .none ∧ s.job = .none ∧ s.version = 0 ∧ s.depth = 0 ∧ s.rle = 0 ∧
    s.width = 0 ∧ s.height = 0 ∧ s.inLen = 0 ∧ s.outLen = 0 ∧ s.hdrLen = 0 ∧ s.palSize = 0 ∧
    s.work.prev = ⟨0, 0, 0⟩ ∧ s.work.runCnt = 0 ∧ s.work.acc = 0 ∧ s.work.accN = 0 ∧ s.work.rp = 0 ∧
    s.work.wp = 0 ∧ s.work.pix = 0 ∧ regRead 0x00 s = some 0 ∧ regRead 0x30 s = some 0x554C4234 ∧
    (∀ a, s.ibuf.read a = none) ∧ (∀ a, s.obuf.read a = none) ∧ (∀ a, s.pmem.read a = none) ∧
    (∀ a, s.pal.read a = none)) ∧
  ∀ s : State, s.job = .none → engineStep s = .next s ∧ (s.host = [] → step s = .next s) ∧
    ∀ ops, s.host = .tick :: ops → step s = .next (setHost ops s)

/-- A register read returns the field with zeros above it, and a register write outside `BUSY` stores the field's bits
in the writable registers and is ignored in the read-only ones; the codes of `STATUS` are 0 to 3, those of `ERR` 0 to 7
(R11, R250). -/
def Obligations.RegisterAccess : Prop :=
  ∀ (s : State) (off : Nat) (v : Word) (ops : List HostOp), s.status ≠ .busy →
    (∀ w, s.host = .readReg off :: ops →
      ((off = 0x00 ∧ w = 0) ∨ 
        (off = 0x04 ∧ (s.status, w) ∈ [(Status.idle, (0 : Word)), (.busy, 1), (.done, 2), (.error, 3)]) ∨
        (off = 0x08 ∧ (s.err, w) ∈ [(ErrKind.none, (0 : Word)), (.channelOutOfRange, 1), (.pixelCountMismatch, 2),
          (.indexOutOfBounds, 3), (.formatError, 4), (.paletteTooLarge, 5), (.invalidConfig, 6), (.bufferOverflow, 7)]) ∨
        (off = 0x0C ∧ w.toNat = s.version.toNat) ∨
        (off = 0x10 ∧ w.toNat = s.depth.toNat) ∨ (off = 0x14 ∧ w.toNat = s.rle.toNat) ∨
        (off = 0x18 ∧ w.toNat = s.width.toNat) ∨ (off = 0x1C ∧ w.toNat = s.height.toNat) ∨
        (off = 0x20 ∧ w = s.inLen) ∨ (off = 0x24 ∧ w = s.outLen) ∨ (off = 0x28 ∧ w.toNat = s.hdrLen.toNat) ∨
        (off = 0x2C ∧ w.toNat = s.palSize.toNat) ∨ (off = 0x30 ∧ w = 0x554C4234)) →
      step s = .next (answer (.word w) (setHost ops s))) ∧
    (∀ t, s.host = .writeReg off v :: ops →
      ((off = 0x0C ∧ t = { s with version := v.setWidth 8 }) ∨ (off = 0x10 ∧ t = { s with depth := v.setWidth 8 }) ∨
        (off = 0x14 ∧ t = { s with rle := v.setWidth 1 }) ∨ (off = 0x18 ∧ t = { s with width := v.setWidth 16 }) ∨
        (off = 0x1C ∧ t = { s with height := v.setWidth 16 }) ∨ (off = 0x20 ∧ t = { s with inLen := v }) ∨
        ((off = 0x04 ∨ off = 0x08 ∨ off = 0x24 ∨ off = 0x28 ∨ off = 0x2C ∨ off = 0x30) ∧ t = s)) →
      step s = .next (answer .ack (setHost ops t)))

/-- The host's memory ports. The checked pixel port: inside the image it reads or writes exactly `PMEM[x + y * WIDTH]`;
outside, the bus error `IndexOutOfBounds` and nothing else (R52, R104, R105, R253). The byte and palette ports: a write
stores exactly its byte of `IBUF`, a read answers the byte of `IBUF` or `OBUF` or the entry of `PAL` at its own offset,
within the capacity (R53). -/
def Obligations.PixelPort : Prop :=
  (∀ (s : State) (a : Nat) (v : Byte) (p : Pixel) (ops : List HostOp), s.status ≠ .busy →
    (fits (a + 1) s.caps.ibuf = true →
      (s.host = .writeIbuf a v :: ops →
        ∃ t, step s = .next t ∧ t = { s with host := ops, resp := .ack, ibuf := t.ibuf } ∧
          ∀ k, t.ibuf.read k = if k = a then some v else s.ibuf.read k) ∧
      (s.host = .readIbuf a :: ops → s.ibuf.read a = some v → step s = .next (answer (.byte v) (setHost ops s)))) ∧
    (fits (a + 1) s.caps.obuf = true → s.host = .readObuf a :: ops → s.obuf.read a = some v →
      step s = .next (answer (.byte v) (setHost ops s))) ∧
    (a < 256 → s.host = .readPal a :: ops → s.pal.read a = some p →
      step s = .next (answer (.pixel p) (setHost ops s)))) ∧
  ∀ (s : State) (x y : Nat) (p : Pixel) (ops : List HostOp), s.status ≠ .busy →
    (x < s.width.toNat → y < s.height.toNat → fits (x + y * s.width.toNat + 1) s.caps.pmem = true →
      (s.host = .pixelRead x y :: ops → s.pmem.read (x + y * s.width.toNat) = some p →
        step s = .next (answer (.pixel p) (setHost ops s))) ∧
      (s.host = .pixelWrite x y p :: ops →
        ∃ t, step s = .next t ∧ t = { s with host := ops, resp := .ack, pmem := t.pmem } ∧
          ∀ i, t.pmem.read i = if i = x + y * s.width.toNat then some p else s.pmem.read i)) ∧
    (¬ (x < s.width.toNat ∧ y < s.height.toNat) → s.host = .pixelRead x y :: ops ∨ s.host = .pixelWrite x y p :: ops →
      step s = .next (answer (.busError .indexOutOfBounds) (setHost ops s)))

/-- While `BUSY`, every host access to a register or memory other than a `STATUS` read and a `CMD` write has no defined
outcome, which the model makes a fault (R17, R285, R297; log 12); a `STATUS` read answers `BUSY` and changes nothing
else. -/
def Obligations.BusyAccess : Prop :=
  ∀ (s : State) (op : HostOp) (ops : List HostOp), s.status = .busy → s.host = op :: ops →
    ((∃ off, op = .readReg off ∧ off ≠ 0x04) ∨ (∃ off v, op = .writeReg off v ∧ off ≠ 0x00) ∨
      (∃ a, op = .readIbuf a) ∨ (∃ a v, op = .writeIbuf a v) ∨ (∃ a, op = .readObuf a) ∨ (∃ i, op = .readPal i) ∨
      (∃ x y, op = .pixelRead x y) ∨ (∃ x y p, op = .pixelWrite x y p) → step s = .fault .hostAccessWhileBusy) ∧
    (op = .readReg 0x04 → step s = .next (answer (.word 1) (setHost ops s)))

/-- `rst` in any state, also while a command runs, gives the engine's reset values (R280, R281). The model's own fields
stay (log 25). The spec leaves `RUN_VAL` unspecified there; that it is (0,0,0), as in `State.reset`, is the model's choice
(log 6, DESIGN CHOICE, unsafe). -/
def Obligations.RstResult : Prop :=
  ∀ (s : State) (ops : List HostOp), s.host = .rst :: ops →
    step s = .next { State.reset with caps := s.caps, host := ops, resp := .ack, draw := s.draw }

/-! ### Invariants and frames of every step -/

/-- Every step keeps the four memories in canonical form (log 8). -/
def Obligations.StepKeepsMemories : Prop :=
  ∀ s t : State, CanonicalMemories s → step s = .next t → CanonicalMemories t

/-- Every step keeps `STATUS`, `ERR` and the command in progress in agreement (R12 to R14, R253). -/
def Obligations.StepKeepsControl : Prop :=
  ∀ s t : State, ControlInv s → step s = .next t → ControlInv t

/-- Every step keeps a legal state legal: memories within their capacities, cursors, palette and header fields within
their ranges, in every phase of every command (R5, R11, R20, R21, R24, R57, R181, R215). -/
def Obligations.StepKeepsLegal : Prop :=
  ∀ s t : State, EngineInv s → step s = .next t → EngineInv t

/-- The reset state is legal. -/
def Obligations.ResetLegal : Prop := EngineInv State.reset

/-- Apart from `rst`, `STATUS` changes only along the transitions that the spec lists (R13). -/
def Obligations.StatusTransitions : Prop :=
  ∀ s t : State, ControlInv s → s.host.head? ≠ some .rst → step s = .next t → statusMay s.status t.status = true

/-- What a step of the engine never writes: `IBUF`, `IN_LEN` and the capacities in any command; `OBUF` and `OUT_LEN` in
`DEC`; `PMEM` and the five configuration registers in `ENC` (R40, R196, R231, R262). -/
def Obligations.EngineFrame : Prop :=
  ∀ s t : State, engineStep s = .next t →
    t.ibuf = s.ibuf ∧ t.inLen = s.inLen ∧ t.caps = s.caps ∧ t.host = s.host ∧ t.resp = s.resp ∧
    (decoding s.job = true → t.obuf = s.obuf ∧ t.outLen = s.outLen) ∧
    (encoding s.job = true → t.pmem = s.pmem ∧ t.version = s.version ∧ t.depth = s.depth ∧ t.rle = s.rle ∧
      t.width = s.width ∧ t.height = s.height)

/-! ### Whole commands -/

/-- A started command ends: from any legal state whose input cells have been written, `STATUS` leaves `BUSY` after
finitely many steps (R295). -/
def Obligations.CommandEnds : Prop :=
  ∀ s : State, EngineInv s → Ready s → s.host = [] → ∃ n t, runSteps n s = .next t ∧ t.status ≠ .busy

/-- The `DEC` command computes the function level: it ends, with the same error or with the decoded image and palette
delivered; with `IN_LEN` beyond `IBUF_SIZE` it ends with `BufferOverflow`, whatever `IBUF` holds (R9, R57, R230,
R231, R233, R261, R262). -/
def Obligations.DecRefines : Prop :=
  ∀ (s u : State) (B : List Byte), s.status ≠ .busy → s.host = [] →
    (fits s.inLen.toNat s.caps.ibuf = true → s.ibuf.readRange 0 s.inLen.toNat = some B) → exec .dec s = .next u →
    ∃ n t, runSteps n u = .next t ∧ t.status ≠ .busy ∧
      match if fits s.inLen.toNat s.caps.ibuf then decodeWithin s.caps B else .error .bufferOverflow with
      | .error e => t.status = .error ∧ t.err = e
      | .ok d => DecDelivered d t

/-- The `ENC` command computes the function level: it ends, with the same error or with the file and palette delivered
(R9, R195 to R197, R261, R262; `OUT_LEN` beyond 32 bits is log 13). -/
def Obligations.EncRefines : Prop :=
  ∀ (s u : State) (px : List Pixel), s.status ≠ .busy → s.host = [] → s.pmem.readRange 0 (pixelCount s) = some px →
    exec .enc s = .next u →
    ∃ n t, runSteps n u = .next t ∧ t.status ≠ .busy ∧
      match encodeWithin s.caps ⟨s.version, s.depth, s.rle⟩ s.width s.height px with
      | .error e => t.status = .error ∧ t.err = e
      | .ok r => EncDelivered ⟨s.version, s.depth, s.rle⟩ r t

/-- `DEC` is a function of the file and the capacities: from two states that agree on these, whatever else they hold,
it ends in the same status and code and, if `DONE`, with the same registers, image and palette (R235). -/
def Obligations.DecPure : Prop :=
  ∀ (s₁ s₂ u₁ u₂ t₁ t₂ : State) (B : List Byte) (n₁ n₂ : Nat), s₁.status ≠ .busy → s₂.status ≠ .busy →
    s₁.host = [] → s₂.host = [] → s₁.caps = s₂.caps → s₁.inLen = s₂.inLen →
    (fits s₁.inLen.toNat s₁.caps.ibuf = true →
      s₁.ibuf.readRange 0 s₁.inLen.toNat = some B ∧ s₂.ibuf.readRange 0 s₂.inLen.toNat = some B) →
    exec .dec s₁ = .next u₁ → exec .dec s₂ = .next u₂ →
    runSteps n₁ u₁ = .next t₁ → runSteps n₂ u₂ = .next t₂ → t₁.status ≠ .busy → t₂.status ≠ .busy →
    t₁.status = t₂.status ∧ t₁.err = t₂.err ∧
    (t₁.status = .done → t₁.version = t₂.version ∧ t₁.width = t₂.width ∧ t₁.height = t₂.height ∧
      t₁.hdrLen = t₂.hdrLen ∧ t₁.depth = t₂.depth ∧ t₁.rle = t₂.rle ∧ t₁.palSize = t₂.palSize ∧
      (∀ i < pixelCount t₁, t₁.pmem.read i = t₂.pmem.read i) ∧
      ∀ i < t₁.palSize.toNat, t₁.pal.read i = t₂.pal.read i)

/-- `ENC` is a function of the image, the configuration and the capacities: from two states that agree on these,
whatever else they hold, it ends in the same status and code and, if `DONE`, with the same file, header length and
palette (R198; also where `OUT_LEN` is the free value of log 13). -/
def Obligations.EncPure : Prop :=
  ∀ (s₁ s₂ u₁ u₂ t₁ t₂ : State) (px : List Pixel) (n₁ n₂ : Nat), s₁.status ≠ .busy → s₂.status ≠ .busy →
    s₁.host = [] → s₂.host = [] → s₁.caps = s₂.caps → s₁.version = s₂.version → s₁.depth = s₂.depth →
    s₁.rle = s₂.rle → s₁.width = s₂.width → s₁.height = s₂.height →
    s₁.pmem.readRange 0 (pixelCount s₁) = some px → s₂.pmem.readRange 0 (pixelCount s₂) = some px →
    exec .enc s₁ = .next u₁ → exec .enc s₂ = .next u₂ →
    runSteps n₁ u₁ = .next t₁ → runSteps n₂ u₂ = .next t₂ → t₁.status ≠ .busy → t₂.status ≠ .busy →
    t₁.status = t₂.status ∧ t₁.err = t₂.err ∧
    (t₁.status = .done → t₁.outLen = t₂.outLen ∧ t₁.hdrLen = t₂.hdrLen ∧
      t₁.palSize = t₂.palSize ∧ (∀ a < t₁.outLen.toNat, t₁.obuf.read a = t₂.obuf.read a) ∧
      ∀ i < t₁.palSize.toNat, t₁.pal.read i = t₂.pal.read i)

/-! ### Choice of a version 4 block -/

/-- The block of a pixel is the first of `SMALL`, `INTER`, `BIGR`, `BIGG`, `BIGB` whose bounds its deltas meet, else `NEW`
(R130 to R132), an unchanged pixel is `SMALL` with deltas 0 (R132 a), and the step of the version 4 encoder writes that
block and makes the pixel the previous one (R139; one step for each pixel is log 16). -/
def Obligations.BlockChoice : Prop :=
  (∀ (prev cur : Pixel) (dr dg db : Int), dr = (cur.r.toNat : Int) - (prev.r.toNat : Int) →
    dg = (cur.g.toNat : Int) - (prev.g.toNat : Int) → db = (cur.b.toNat : Int) - (prev.b.toNat : Int) →
    blockFor prev cur =
      if (-2 ≤ dr ∧ dr ≤ 1) ∧ (-2 ≤ dg ∧ dg ≤ 1) ∧ (-2 ≤ db ∧ db ≤ 1) then .small dr dg db
      else if (-32 ≤ dg ∧ dg ≤ 31) ∧ (-8 ≤ dr - dg ∧ dr - dg ≤ 7) ∧ (-8 ≤ db - dg ∧ db - dg ≤ 7) then .inter dr dg db
      else if (-128 ≤ dr ∧ dr ≤ 127) ∧ (-32 ≤ dg - dr ∧ dg - dr ≤ 31) ∧ (-32 ≤ db - dr ∧ db - dr ≤ 31) then
        .bigr dr dg db
      else if (-128 ≤ dg ∧ dg ≤ 127) ∧ (-32 ≤ dr - dg ∧ dr - dg ≤ 31) ∧ (-32 ≤ db - dg ∧ db - dg ≤ 31) then
        .bigg dr dg db
      else if (-128 ≤ db ∧ db ≤ 127) ∧ (-32 ≤ dr - db ∧ dr - db ≤ 31) ∧ (-32 ≤ dg - db ∧ dg - db ≤ 31) then
        .bigb dr dg db
      else .new cur.r cur.g cur.b) ∧
  (∀ p : Pixel, blockFor p p = .small 0 0 0) ∧
  ∀ (s : State) (p : Pixel) (block : List Byte), s.host = [] → s.job = .encStream .delta →
    s.work.pix < pixelCount s → s.pmem.read s.work.pix = some p → block = encode (blockFor s.work.prev p) →
    step s = .next (
      if fits (s.work.wp + block.length) s.caps.obuf then nextPixel (setPrev p (emitBytes block s))
      else raise .bufferOverflow s)
end

