-- ==== Sys2Proof/Laws/Memory.lean ====
section
/-! SUPPORT. The laws of memories: what is read after a write, and that every operation keeps the canonical form. -/

namespace Sys2Proof.Machine

variable {α : Type}

/-! ### Reading after writing -/

@[simp] theorem Memory.read_nil (a : Nat) : Memory.read ([] : Memory α) a = none := rfl

theorem Memory.read_write (m : Memory α) (a b : Nat) (v : α) :
    (m.write a v).read b = if b = a then some v else m.read b := by
  induction m with
  | nil => simp [Memory.write, Memory.read, eq_comm]
  | cons c m ih =>
    obtain ⟨k, w⟩ := c
    simp only [Memory.write]
    by_cases h1 : a < k
    · simp only [h1, if_true, Memory.read, eq_comm]
    · by_cases h2 : a = k
      · subst h2
        simp only [lt_irrefl, if_false, if_true, Memory.read, eq_comm (a := b)]
        by_cases hb : a = b <;> simp [hb]
      · simp only [h1, h2, if_false, Memory.read, ih]
        by_cases hb : b = a
        · subst hb; simp only [if_true, if_neg fun e : k = b => h2 e.symm]
        · simp [hb]

@[simp] theorem Memory.read_write_same (m : Memory α) (a : Nat) (v : α) : (m.write a v).read a = some v := by
  simp [Memory.read_write]

theorem Memory.read_write_of_ne (m : Memory α) {a b : Nat} (v : α) (h : b ≠ a) : (m.write a v).read b = m.read b := by
  simp [Memory.read_write, h]

/-- A range write puts the `i`-th value at `a + i` and leaves every other cell alone. -/
theorem Memory.read_writeRange (vs : List α) (m : Memory α) (a b : Nat) :
    (m.writeRange a vs).read b = if a ≤ b ∧ b < a + vs.length then vs[b - a]? else m.read b := by
  induction vs generalizing m a with
  | nil => simp only [Memory.writeRange, List.length_nil]; rw [if_neg (by omega)]
  | cons v vs ih =>
    simp only [Memory.writeRange, ih, List.length_cons, Memory.read_write]
    by_cases h1 : b = a
    · subst h1; simp
    · by_cases h2 : a + 1 ≤ b ∧ b < a + 1 + vs.length
      · rw [if_pos h2, if_pos (by omega), show b - a = (b - (a + 1)) + 1 by omega, List.getElem?_cons_succ]
      · rw [if_neg h2, if_neg h1, if_neg (by omega)]

theorem Memory.read_writeRange_outside (vs : List α) (m : Memory α) {a b : Nat} (h : b < a ∨ a + vs.length ≤ b) :
    (m.writeRange a vs).read b = m.read b := by
  rw [Memory.read_writeRange, if_neg (by omega)]

@[simp] theorem Memory.writeRange_nil (m : Memory α) (a : Nat) : m.writeRange a [] = m := rfl

@[simp] theorem Memory.writeRange_singleton (m : Memory α) (a : Nat) (v : α) : m.writeRange a [v] = m.write a v := rfl

theorem Memory.writeRange_append (m : Memory α) (a : Nat) (xs ys : List α) :
    m.writeRange a (xs ++ ys) = (m.writeRange a xs).writeRange (a + xs.length) ys := by
  induction xs generalizing m a with
  | nil => simp
  | cons x xs ih => simp [Memory.writeRange, ih, Nat.add_assoc, Nat.add_comm 1]

/-! ### Ranges -/

@[simp] theorem Memory.readRange_zero (m : Memory α) (a : Nat) : m.readRange a 0 = some [] := rfl

theorem Memory.readRange_succ (m : Memory α) (a n : Nat) (v : α) (vs : List α) :
    m.readRange a (n + 1) = some (v :: vs) ↔ m.read a = some v ∧ m.readRange (a + 1) n = some vs := by
  simp only [Memory.readRange]
  cases m.read a <;> cases m.readRange (a + 1) n <;> simp

/-- A range reads as `vs` exactly when each of its cells does. -/
theorem Memory.readRange_eq_some (m : Memory α) (a n : Nat) (vs : List α) :
    m.readRange a n = some vs ↔ vs.length = n ∧ ∀ i < n, m.read (a + i) = vs[i]? := by
  induction n generalizing a vs with
  | zero => cases vs <;> simp [Memory.readRange]
  | succ n ih =>
    cases vs with
    | nil =>
      simp only [Memory.readRange]
      cases m.read a <;> cases m.readRange (a + 1) n <;> simp
    | cons v vs =>
      rw [Memory.readRange_succ, ih]
      constructor
      · rintro ⟨h0, hl, hi⟩
        refine ⟨by simp [hl], fun i hlt => ?_⟩
        cases i with
        | zero => simpa using h0
        | succ i => simpa [Nat.add_assoc, Nat.add_comm 1] using hi i (by omega)
      · rintro ⟨hl, hi⟩
        refine ⟨by simpa using hi 0 (by omega), by simpa using hl, fun i hlt => ?_⟩
        simpa [Nat.add_assoc, Nat.add_comm 1] using hi (i + 1) (by omega)

theorem Memory.readRange_length {m : Memory α} {a n : Nat} {vs : List α} (h : m.readRange a n = some vs) : vs.length = n :=
  ((Memory.readRange_eq_some m a n vs).1 h).1

theorem Memory.readRange_getElem {m : Memory α} {a n : Nat} {vs : List α} (h : m.readRange a n = some vs) {i : Nat}
    (hi : i < n) : m.read (a + i) = vs[i]? :=
  ((Memory.readRange_eq_some m a n vs).1 h).2 i hi

/-- A range can be read exactly when every cell of it holds a value. -/
theorem Memory.readRange_isSome (m : Memory α) (a n : Nat) :
    (∃ vs, m.readRange a n = some vs) ↔ ∀ i < n, m.read (a + i) ≠ none := by
  induction n generalizing a with
  | zero => simp
  | succ n ih =>
    constructor
    · rintro ⟨vs, h⟩ i hi
      obtain ⟨hl, hr⟩ := (Memory.readRange_eq_some _ _ _ _).1 h
      rw [hr i hi, List.getElem?_eq_getElem (by omega)]
      simp
    · intro h
      obtain ⟨vs, hv⟩ := (ih (a + 1)).2 fun i hi => by
        have := h (i + 1) (by omega)
        rwa [show a + (i + 1) = a + 1 + i by omega] at this
      cases h0 : m.read a with
      | none => exact absurd h0 (by simpa using h 0 (by omega))
      | some v => exact ⟨v :: vs, (Memory.readRange_succ m a n v vs).2 ⟨h0, hv⟩⟩

/-- A part of a readable range reads as that part. -/
theorem Memory.readRange_sub {m : Memory α} {a n : Nat} {vs : List α} (h : m.readRange a n = some vs) {i k : Nat}
    (hk : i + k ≤ n) : m.readRange (a + i) k = some ((vs.drop i).take k) := by
  obtain ⟨hl, hr⟩ := (Memory.readRange_eq_some _ _ _ _).1 h
  rw [Memory.readRange_eq_some]
  refine ⟨by simp; omega, fun j hj => ?_⟩
  rw [Nat.add_assoc, hr (i + j) (by omega), List.getElem?_take, if_pos hj, List.getElem?_drop]

theorem Memory.readRange_writeRange (m : Memory α) (a : Nat) (vs : List α) :
    (m.writeRange a vs).readRange a vs.length = some vs := by
  rw [Memory.readRange_eq_some]
  refine ⟨rfl, fun i hi => ?_⟩
  rw [Memory.read_writeRange, if_pos (by omega), Nat.add_sub_cancel_left]

/-! ### Loosening -/

theorem Memory.read_loosen (m : Memory α) (n : Nat) (f : Nat → α) (a : Nat) :
    (m.loosen n f).read a = if a < n then m.read a else (m.read a).map fun _ => f a := by
  induction m with
  | nil => simp [Memory.loosen, Memory.read]
  | cons c m ih =>
    obtain ⟨k, w⟩ := c
    have ih' : Memory.read (List.map (fun c => if c.1 < n then c else (c.1, f c.1)) m) a =
        if a < n then Memory.read m a else (Memory.read m a).map fun _ => f a := ih
    simp only [Memory.loosen, List.map_cons]
    by_cases hk : k < n <;> simp only [hk, if_true, if_false, Memory.read, ih'] <;> by_cases ha : k = a <;> simp_all

theorem Memory.read_loosen_lt (m : Memory α) {n a : Nat} (f : Nat → α) (h : a < n) : (m.loosen n f).read a = m.read a := by
  rw [Memory.read_loosen, if_pos h]

@[simp] theorem Memory.loosen_addresses (m : Memory α) (n : Nat) (f : Nat → α) :
    (m.loosen n f).map Prod.fst = m.map Prod.fst := by
  simp only [Memory.loosen, List.map_map]
  refine List.map_congr_left fun c _ => ?_
  simp only [Function.comp_apply]
  split <;> rfl

/-! ### Canonical form -/

theorem Memory.wf_nil : Memory.wf ([] : Memory α) := by simp [Memory.wf]

/-- The addresses listed after a write. -/
theorem Memory.mem_addresses_write (m : Memory α) (a : Nat) (v : α) (x : Nat) :
    x ∈ (m.write a v).map Prod.fst ↔ x = a ∨ x ∈ m.map Prod.fst := by
  induction m with
  | nil => simp [Memory.write]
  | cons c m ih =>
    obtain ⟨k, w⟩ := c
    simp only [Memory.write]
    split_ifs with h1 h2
    · simp
    · subst h2; simp
    · simp only [List.map_cons, List.mem_cons, ih]; tauto

/-- A write keeps the canonical form. -/
theorem Memory.wf_write {m : Memory α} (h : m.wf) (a : Nat) (v : α) : (m.write a v).wf := by
  induction m with
  | nil => simp [Memory.write, Memory.wf]
  | cons c m ih =>
    obtain ⟨k, w⟩ := c
    simp only [Memory.wf, List.map_cons, List.pairwise_cons] at h
    obtain ⟨hk, hm⟩ := h
    simp only [Memory.write]
    split_ifs with h1 h2
    · simp only [Memory.wf, List.map_cons, List.pairwise_cons, List.mem_cons]
      refine ⟨?_, hk, hm⟩
      rintro x (rfl | hx)
      · exact h1
      · exact lt_trans h1 (hk x hx)
    · subst h2
      simp only [Memory.wf, List.map_cons, List.pairwise_cons]
      exact ⟨hk, hm⟩
    · have hw := ih hm
      simp only [Memory.wf, List.map_cons, List.pairwise_cons]
      refine ⟨fun x hx => ?_, hw⟩
      rcases (Memory.mem_addresses_write m a v x).1 hx with rfl | hx
      · omega
      · exact hk x hx

theorem Memory.wf_writeRange (vs : List α) {m : Memory α} (h : m.wf) (a : Nat) : (m.writeRange a vs).wf := by
  induction vs generalizing m a with
  | nil => exact h
  | cons v vs ih => exact ih (Memory.wf_write h a v) (a + 1)

theorem Memory.wf_loosen {m : Memory α} (h : m.wf) (n : Nat) (f : Nat → α) : (m.loosen n f).wf := by
  rw [Memory.wf, Memory.loosen_addresses]; exact h

/-- A cell below every listed address, or not listed, holds no value. -/
theorem Memory.read_eq_none (m : Memory α) (a : Nat) : m.read a = none ↔ a ∉ m.map Prod.fst := by
  induction m with
  | nil => simp
  | cons c m ih =>
    obtain ⟨k, w⟩ := c
    simp only [Memory.read, List.map_cons, List.mem_cons, not_or]
    by_cases h : k = a
    · simp [h]
    · simp only [h, if_false, ih]
      exact ⟨fun hm => ⟨fun e => h e.symm, hm⟩, fun hm => hm.2⟩

/-- Two memories in canonical form that read the same everywhere are the same list. -/
theorem Memory.ext_of_wf {m m' : Memory α} (h : m.wf) (h' : m'.wf) (e : ∀ a, m.read a = m'.read a) : m = m' := by
  induction m generalizing m' with
  | nil =>
    cases m' with
    | nil => rfl
    | cons c t => have := e c.1; simp [Memory.read] at this
  | cons c t ih =>
    obtain ⟨k, v⟩ := c
    cases m' with
    | nil => have := e k; simp [Memory.read] at this
    | cons d u =>
      obtain ⟨l, w⟩ := d
      simp only [Memory.wf, List.map_cons, List.pairwise_cons] at h h'
      have tn : ∀ x ≤ k, Memory.read t x = none := fun x hx =>
        (Memory.read_eq_none t x).2 fun hm => absurd (h.1 x hm) (by omega)
      have un : ∀ x ≤ l, Memory.read u x = none := fun x hx =>
        (Memory.read_eq_none u x).2 fun hm => absurd (h'.1 x hm) (by omega)
      have hkl : k = l := by
        rcases Nat.lt_trichotomy k l with hlt | heq | hgt
        · have := e k
          simp only [Memory.read, if_true] at this
          rw [if_neg (by omega), un k (by omega)] at this
          simp at this
        · exact heq
        · have := e l
          simp only [Memory.read, if_true] at this
          rw [if_neg (by omega), tn l (by omega)] at this
          simp at this
      subst hkl
      have hvw : v = w := by have := e k; simpa [Memory.read] using this
      subst hvw
      rw [ih h.2 h'.2 fun a => ?_]
      by_cases ha : k = a
      · subst ha; rw [tn k le_rfl, un k le_rfl]
      · have := e a
        simpa [Memory.read, ha] using this

end Sys2Proof.Machine
end

