-- ==== Sys2Proof/Laws/State.lean ====
section
/-! SUPPORT. For every named update of the state, what each field is after it, so that no proof unfolds a record update. -/

namespace Sys2Proof.Machine

/-! ### `answer` -/

@[simp] theorem answer_status (r : Resp) (s : State) : (answer r s).status = s.status := rfl
@[simp] theorem answer_err (r : Resp) (s : State) : (answer r s).err = s.err := rfl
@[simp] theorem answer_version (r : Resp) (s : State) : (answer r s).version = s.version := rfl
@[simp] theorem answer_depth (r : Resp) (s : State) : (answer r s).depth = s.depth := rfl
@[simp] theorem answer_rle (r : Resp) (s : State) : (answer r s).rle = s.rle := rfl
@[simp] theorem answer_width (r : Resp) (s : State) : (answer r s).width = s.width := rfl
@[simp] theorem answer_height (r : Resp) (s : State) : (answer r s).height = s.height := rfl
@[simp] theorem answer_inLen (r : Resp) (s : State) : (answer r s).inLen = s.inLen := rfl
@[simp] theorem answer_outLen (r : Resp) (s : State) : (answer r s).outLen = s.outLen := rfl
@[simp] theorem answer_hdrLen (r : Resp) (s : State) : (answer r s).hdrLen = s.hdrLen := rfl
@[simp] theorem answer_palSize (r : Resp) (s : State) : (answer r s).palSize = s.palSize := rfl
@[simp] theorem answer_work (r : Resp) (s : State) : (answer r s).work = s.work := rfl
@[simp] theorem answer_pal (r : Resp) (s : State) : (answer r s).pal = s.pal := rfl
@[simp] theorem answer_ibuf (r : Resp) (s : State) : (answer r s).ibuf = s.ibuf := rfl
@[simp] theorem answer_obuf (r : Resp) (s : State) : (answer r s).obuf = s.obuf := rfl
@[simp] theorem answer_pmem (r : Resp) (s : State) : (answer r s).pmem = s.pmem := rfl
@[simp] theorem answer_job (r : Resp) (s : State) : (answer r s).job = s.job := rfl
@[simp] theorem answer_caps (r : Resp) (s : State) : (answer r s).caps = s.caps := rfl
@[simp] theorem answer_host (r : Resp) (s : State) : (answer r s).host = s.host := rfl
@[simp] theorem answer_resp (r : Resp) (s : State) : (answer r s).resp = r := rfl
@[simp] theorem answer_draw (r : Resp) (s : State) : (answer r s).draw = s.draw := rfl

/-! ### `clearCommand` -/

@[simp] theorem clearCommand_status (s : State) : (clearCommand s).status = .idle := rfl
@[simp] theorem clearCommand_err (s : State) : (clearCommand s).err = .none := rfl
@[simp] theorem clearCommand_version (s : State) : (clearCommand s).version = s.version := rfl
@[simp] theorem clearCommand_depth (s : State) : (clearCommand s).depth = s.depth := rfl
@[simp] theorem clearCommand_rle (s : State) : (clearCommand s).rle = s.rle := rfl
@[simp] theorem clearCommand_width (s : State) : (clearCommand s).width = s.width := rfl
@[simp] theorem clearCommand_height (s : State) : (clearCommand s).height = s.height := rfl
@[simp] theorem clearCommand_inLen (s : State) : (clearCommand s).inLen = s.inLen := rfl
@[simp] theorem clearCommand_outLen (s : State) : (clearCommand s).outLen = s.outLen := rfl
@[simp] theorem clearCommand_hdrLen (s : State) : (clearCommand s).hdrLen = s.hdrLen := rfl
@[simp] theorem clearCommand_palSize (s : State) : (clearCommand s).palSize = s.palSize := rfl
@[simp] theorem clearCommand_work (s : State) : (clearCommand s).work = s.work := rfl
@[simp] theorem clearCommand_pal (s : State) : (clearCommand s).pal = s.pal := rfl
@[simp] theorem clearCommand_ibuf (s : State) : (clearCommand s).ibuf = s.ibuf := rfl
@[simp] theorem clearCommand_obuf (s : State) : (clearCommand s).obuf = s.obuf := rfl
@[simp] theorem clearCommand_pmem (s : State) : (clearCommand s).pmem = s.pmem := rfl
@[simp] theorem clearCommand_job (s : State) : (clearCommand s).job = s.job := rfl
@[simp] theorem clearCommand_caps (s : State) : (clearCommand s).caps = s.caps := rfl
@[simp] theorem clearCommand_host (s : State) : (clearCommand s).host = s.host := rfl
@[simp] theorem clearCommand_resp (s : State) : (clearCommand s).resp = s.resp := rfl
@[simp] theorem clearCommand_draw (s : State) : (clearCommand s).draw = s.draw := rfl

/-! ### `startCommand` -/

@[simp] theorem startCommand_status (j : Job) (s : State) : (startCommand j s).status = .busy := rfl
@[simp] theorem startCommand_err (j : Job) (s : State) : (startCommand j s).err = .none := rfl
@[simp] theorem startCommand_version (j : Job) (s : State) : (startCommand j s).version = s.version := rfl
@[simp] theorem startCommand_depth (j : Job) (s : State) : (startCommand j s).depth = s.depth := rfl
@[simp] theorem startCommand_rle (j : Job) (s : State) : (startCommand j s).rle = s.rle := rfl
@[simp] theorem startCommand_width (j : Job) (s : State) : (startCommand j s).width = s.width := rfl
@[simp] theorem startCommand_height (j : Job) (s : State) : (startCommand j s).height = s.height := rfl
@[simp] theorem startCommand_inLen (j : Job) (s : State) : (startCommand j s).inLen = s.inLen := rfl
@[simp] theorem startCommand_outLen (j : Job) (s : State) : (startCommand j s).outLen = s.outLen := rfl
@[simp] theorem startCommand_hdrLen (j : Job) (s : State) : (startCommand j s).hdrLen = s.hdrLen := rfl
@[simp] theorem startCommand_palSize (j : Job) (s : State) : (startCommand j s).palSize = s.palSize := rfl
@[simp] theorem startCommand_work (j : Job) (s : State) : (startCommand j s).work = initWork s.work := rfl
@[simp] theorem startCommand_pal (j : Job) (s : State) : (startCommand j s).pal = s.pal := rfl
@[simp] theorem startCommand_ibuf (j : Job) (s : State) : (startCommand j s).ibuf = s.ibuf := rfl
@[simp] theorem startCommand_obuf (j : Job) (s : State) : (startCommand j s).obuf = s.obuf := rfl
@[simp] theorem startCommand_pmem (j : Job) (s : State) : (startCommand j s).pmem = s.pmem := rfl
@[simp] theorem startCommand_job (j : Job) (s : State) : (startCommand j s).job = j := rfl
@[simp] theorem startCommand_caps (j : Job) (s : State) : (startCommand j s).caps = s.caps := rfl
@[simp] theorem startCommand_host (j : Job) (s : State) : (startCommand j s).host = s.host := rfl
@[simp] theorem startCommand_resp (j : Job) (s : State) : (startCommand j s).resp = s.resp := rfl
@[simp] theorem startCommand_draw (j : Job) (s : State) : (startCommand j s).draw = s.draw := rfl

/-! ### `retire` -/

@[simp] theorem retire_status (s : State) : (retire s).status = s.status := rfl
@[simp] theorem retire_err (s : State) : (retire s).err = s.err := rfl
@[simp] theorem retire_version (s : State) : (retire s).version = s.version := rfl
@[simp] theorem retire_depth (s : State) : (retire s).depth = s.depth := rfl
@[simp] theorem retire_rle (s : State) : (retire s).rle = s.rle := rfl
@[simp] theorem retire_width (s : State) : (retire s).width = s.width := rfl
@[simp] theorem retire_height (s : State) : (retire s).height = s.height := rfl
@[simp] theorem retire_inLen (s : State) : (retire s).inLen = s.inLen := rfl
@[simp] theorem retire_outLen (s : State) : (retire s).outLen = s.outLen := rfl
@[simp] theorem retire_hdrLen (s : State) : (retire s).hdrLen = s.hdrLen := rfl
@[simp] theorem retire_palSize (s : State) : (retire s).palSize = s.palSize := rfl
@[simp] theorem retire_work (s : State) : (retire s).work = freeWork s.draw := rfl
@[simp] theorem retire_pal (s : State) : (retire s).pal = s.pal := rfl
@[simp] theorem retire_ibuf (s : State) : (retire s).ibuf = s.ibuf := rfl
@[simp] theorem retire_obuf (s : State) : (retire s).obuf = s.obuf := rfl
@[simp] theorem retire_pmem (s : State) : (retire s).pmem = s.pmem := rfl
@[simp] theorem retire_job (s : State) : (retire s).job = .none := rfl
@[simp] theorem retire_caps (s : State) : (retire s).caps = s.caps := rfl
@[simp] theorem retire_host (s : State) : (retire s).host = s.host := rfl
@[simp] theorem retire_resp (s : State) : (retire s).resp = s.resp := rfl
@[simp] theorem retire_draw (s : State) : (retire s).draw = s.draw + 1 := rfl

/-! ### `loseEnc` -/

@[simp] theorem loseEnc_status (s : State) : (loseEnc s).status = s.status := rfl
@[simp] theorem loseEnc_err (s : State) : (loseEnc s).err = s.err := rfl
@[simp] theorem loseEnc_version (s : State) : (loseEnc s).version = s.version := rfl
@[simp] theorem loseEnc_depth (s : State) : (loseEnc s).depth = s.depth := rfl
@[simp] theorem loseEnc_rle (s : State) : (loseEnc s).rle = s.rle := rfl
@[simp] theorem loseEnc_width (s : State) : (loseEnc s).width = s.width := rfl
@[simp] theorem loseEnc_height (s : State) : (loseEnc s).height = s.height := rfl
@[simp] theorem loseEnc_inLen (s : State) : (loseEnc s).inLen = s.inLen := rfl
@[simp] theorem loseEnc_outLen (s : State) : (loseEnc s).outLen = Config.freeBits 32 .outLen s.draw := rfl
@[simp] theorem loseEnc_hdrLen (s : State) : (loseEnc s).hdrLen = Config.freeBits 16 .hdrLen s.draw := rfl
@[simp] theorem loseEnc_palSize (s : State) : (loseEnc s).palSize = freePalSize s.draw := rfl
@[simp] theorem loseEnc_work (s : State) : (loseEnc s).work = s.work := rfl
@[simp] theorem loseEnc_pal (s : State) : (loseEnc s).pal = s.pal.loosen 0 fun i => freePixel (.pal i) s.draw := rfl
@[simp] theorem loseEnc_ibuf (s : State) : (loseEnc s).ibuf = s.ibuf := rfl
@[simp] theorem loseEnc_obuf (s : State) : (loseEnc s).obuf = s.obuf.loosen 0 fun a => Config.freeBits 8 (.obuf a) s.draw := rfl
@[simp] theorem loseEnc_pmem (s : State) : (loseEnc s).pmem = s.pmem := rfl
@[simp] theorem loseEnc_job (s : State) : (loseEnc s).job = s.job := rfl
@[simp] theorem loseEnc_caps (s : State) : (loseEnc s).caps = s.caps := rfl
@[simp] theorem loseEnc_host (s : State) : (loseEnc s).host = s.host := rfl
@[simp] theorem loseEnc_resp (s : State) : (loseEnc s).resp = s.resp := rfl
@[simp] theorem loseEnc_draw (s : State) : (loseEnc s).draw = s.draw := rfl

/-! ### `loseDec` -/

@[simp] theorem loseDec_status (s : State) : (loseDec s).status = s.status := rfl
@[simp] theorem loseDec_err (s : State) : (loseDec s).err = s.err := rfl
@[simp] theorem loseDec_version (s : State) : (loseDec s).version = Config.freeBits 8 .version s.draw := rfl
@[simp] theorem loseDec_depth (s : State) : (loseDec s).depth = Config.freeBits 8 .depth s.draw := rfl
@[simp] theorem loseDec_rle (s : State) : (loseDec s).rle = Config.freeBits 1 .rle s.draw := rfl
@[simp] theorem loseDec_width (s : State) : (loseDec s).width = Config.freeBits 16 .width s.draw := rfl
@[simp] theorem loseDec_height (s : State) : (loseDec s).height = Config.freeBits 16 .height s.draw := rfl
@[simp] theorem loseDec_inLen (s : State) : (loseDec s).inLen = s.inLen := rfl
@[simp] theorem loseDec_outLen (s : State) : (loseDec s).outLen = s.outLen := rfl
@[simp] theorem loseDec_hdrLen (s : State) : (loseDec s).hdrLen = Config.freeBits 16 .hdrLen s.draw := rfl
@[simp] theorem loseDec_palSize (s : State) : (loseDec s).palSize = freePalSize s.draw := rfl
@[simp] theorem loseDec_work (s : State) : (loseDec s).work = s.work := rfl
@[simp] theorem loseDec_pal (s : State) : (loseDec s).pal = s.pal.loosen 0 fun i => freePixel (.pal i) s.draw := rfl
@[simp] theorem loseDec_ibuf (s : State) : (loseDec s).ibuf = s.ibuf := rfl
@[simp] theorem loseDec_obuf (s : State) : (loseDec s).obuf = s.obuf := rfl
@[simp] theorem loseDec_pmem (s : State) : (loseDec s).pmem = s.pmem.loosen 0 fun i => freePixel (.pmem i) s.draw := rfl
@[simp] theorem loseDec_job (s : State) : (loseDec s).job = s.job := rfl
@[simp] theorem loseDec_caps (s : State) : (loseDec s).caps = s.caps := rfl
@[simp] theorem loseDec_host (s : State) : (loseDec s).host = s.host := rfl
@[simp] theorem loseDec_resp (s : State) : (loseDec s).resp = s.resp := rfl
@[simp] theorem loseDec_draw (s : State) : (loseDec s).draw = s.draw := rfl

/-! ### `setJob` -/

@[simp] theorem setJob_status (j : Job) (s : State) : (setJob j s).status = s.status := rfl
@[simp] theorem setJob_err (j : Job) (s : State) : (setJob j s).err = s.err := rfl
@[simp] theorem setJob_version (j : Job) (s : State) : (setJob j s).version = s.version := rfl
@[simp] theorem setJob_depth (j : Job) (s : State) : (setJob j s).depth = s.depth := rfl
@[simp] theorem setJob_rle (j : Job) (s : State) : (setJob j s).rle = s.rle := rfl
@[simp] theorem setJob_width (j : Job) (s : State) : (setJob j s).width = s.width := rfl
@[simp] theorem setJob_height (j : Job) (s : State) : (setJob j s).height = s.height := rfl
@[simp] theorem setJob_inLen (j : Job) (s : State) : (setJob j s).inLen = s.inLen := rfl
@[simp] theorem setJob_outLen (j : Job) (s : State) : (setJob j s).outLen = s.outLen := rfl
@[simp] theorem setJob_hdrLen (j : Job) (s : State) : (setJob j s).hdrLen = s.hdrLen := rfl
@[simp] theorem setJob_palSize (j : Job) (s : State) : (setJob j s).palSize = s.palSize := rfl
@[simp] theorem setJob_work (j : Job) (s : State) : (setJob j s).work = s.work := rfl
@[simp] theorem setJob_pal (j : Job) (s : State) : (setJob j s).pal = s.pal := rfl
@[simp] theorem setJob_ibuf (j : Job) (s : State) : (setJob j s).ibuf = s.ibuf := rfl
@[simp] theorem setJob_obuf (j : Job) (s : State) : (setJob j s).obuf = s.obuf := rfl
@[simp] theorem setJob_pmem (j : Job) (s : State) : (setJob j s).pmem = s.pmem := rfl
@[simp] theorem setJob_job (j : Job) (s : State) : (setJob j s).job = j := rfl
@[simp] theorem setJob_caps (j : Job) (s : State) : (setJob j s).caps = s.caps := rfl
@[simp] theorem setJob_host (j : Job) (s : State) : (setJob j s).host = s.host := rfl
@[simp] theorem setJob_resp (j : Job) (s : State) : (setJob j s).resp = s.resp := rfl
@[simp] theorem setJob_draw (j : Job) (s : State) : (setJob j s).draw = s.draw := rfl

/-! ### `setHost` -/

@[simp] theorem setHost_status (ops : List HostOp) (s : State) : (setHost ops s).status = s.status := rfl
@[simp] theorem setHost_err (ops : List HostOp) (s : State) : (setHost ops s).err = s.err := rfl
@[simp] theorem setHost_version (ops : List HostOp) (s : State) : (setHost ops s).version = s.version := rfl
@[simp] theorem setHost_depth (ops : List HostOp) (s : State) : (setHost ops s).depth = s.depth := rfl
@[simp] theorem setHost_rle (ops : List HostOp) (s : State) : (setHost ops s).rle = s.rle := rfl
@[simp] theorem setHost_width (ops : List HostOp) (s : State) : (setHost ops s).width = s.width := rfl
@[simp] theorem setHost_height (ops : List HostOp) (s : State) : (setHost ops s).height = s.height := rfl
@[simp] theorem setHost_inLen (ops : List HostOp) (s : State) : (setHost ops s).inLen = s.inLen := rfl
@[simp] theorem setHost_outLen (ops : List HostOp) (s : State) : (setHost ops s).outLen = s.outLen := rfl
@[simp] theorem setHost_hdrLen (ops : List HostOp) (s : State) : (setHost ops s).hdrLen = s.hdrLen := rfl
@[simp] theorem setHost_palSize (ops : List HostOp) (s : State) : (setHost ops s).palSize = s.palSize := rfl
@[simp] theorem setHost_work (ops : List HostOp) (s : State) : (setHost ops s).work = s.work := rfl
@[simp] theorem setHost_pal (ops : List HostOp) (s : State) : (setHost ops s).pal = s.pal := rfl
@[simp] theorem setHost_ibuf (ops : List HostOp) (s : State) : (setHost ops s).ibuf = s.ibuf := rfl
@[simp] theorem setHost_obuf (ops : List HostOp) (s : State) : (setHost ops s).obuf = s.obuf := rfl
@[simp] theorem setHost_pmem (ops : List HostOp) (s : State) : (setHost ops s).pmem = s.pmem := rfl
@[simp] theorem setHost_job (ops : List HostOp) (s : State) : (setHost ops s).job = s.job := rfl
@[simp] theorem setHost_caps (ops : List HostOp) (s : State) : (setHost ops s).caps = s.caps := rfl
@[simp] theorem setHost_host (ops : List HostOp) (s : State) : (setHost ops s).host = ops := rfl
@[simp] theorem setHost_resp (ops : List HostOp) (s : State) : (setHost ops s).resp = s.resp := rfl
@[simp] theorem setHost_draw (ops : List HostOp) (s : State) : (setHost ops s).draw = s.draw := rfl

/-! ### `skipBytes` -/

@[simp] theorem skipBytes_status (n : Nat) (s : State) : (skipBytes n s).status = s.status := rfl
@[simp] theorem skipBytes_err (n : Nat) (s : State) : (skipBytes n s).err = s.err := rfl
@[simp] theorem skipBytes_version (n : Nat) (s : State) : (skipBytes n s).version = s.version := rfl
@[simp] theorem skipBytes_depth (n : Nat) (s : State) : (skipBytes n s).depth = s.depth := rfl
@[simp] theorem skipBytes_rle (n : Nat) (s : State) : (skipBytes n s).rle = s.rle := rfl
@[simp] theorem skipBytes_width (n : Nat) (s : State) : (skipBytes n s).width = s.width := rfl
@[simp] theorem skipBytes_height (n : Nat) (s : State) : (skipBytes n s).height = s.height := rfl
@[simp] theorem skipBytes_inLen (n : Nat) (s : State) : (skipBytes n s).inLen = s.inLen := rfl
@[simp] theorem skipBytes_outLen (n : Nat) (s : State) : (skipBytes n s).outLen = s.outLen := rfl
@[simp] theorem skipBytes_hdrLen (n : Nat) (s : State) : (skipBytes n s).hdrLen = s.hdrLen := rfl
@[simp] theorem skipBytes_palSize (n : Nat) (s : State) : (skipBytes n s).palSize = s.palSize := rfl
@[simp] theorem skipBytes_work (n : Nat) (s : State) : (skipBytes n s).work = { s.work with rp := s.work.rp + n } := rfl
@[simp] theorem skipBytes_pal (n : Nat) (s : State) : (skipBytes n s).pal = s.pal := rfl
@[simp] theorem skipBytes_ibuf (n : Nat) (s : State) : (skipBytes n s).ibuf = s.ibuf := rfl
@[simp] theorem skipBytes_obuf (n : Nat) (s : State) : (skipBytes n s).obuf = s.obuf := rfl
@[simp] theorem skipBytes_pmem (n : Nat) (s : State) : (skipBytes n s).pmem = s.pmem := rfl
@[simp] theorem skipBytes_job (n : Nat) (s : State) : (skipBytes n s).job = s.job := rfl
@[simp] theorem skipBytes_caps (n : Nat) (s : State) : (skipBytes n s).caps = s.caps := rfl
@[simp] theorem skipBytes_host (n : Nat) (s : State) : (skipBytes n s).host = s.host := rfl
@[simp] theorem skipBytes_resp (n : Nat) (s : State) : (skipBytes n s).resp = s.resp := rfl
@[simp] theorem skipBytes_draw (n : Nat) (s : State) : (skipBytes n s).draw = s.draw := rfl

/-! ### `setPalSize` -/

@[simp] theorem setPalSize_status (k : Nat) (s : State) : (setPalSize k s).status = s.status := rfl
@[simp] theorem setPalSize_err (k : Nat) (s : State) : (setPalSize k s).err = s.err := rfl
@[simp] theorem setPalSize_version (k : Nat) (s : State) : (setPalSize k s).version = s.version := rfl
@[simp] theorem setPalSize_depth (k : Nat) (s : State) : (setPalSize k s).depth = s.depth := rfl
@[simp] theorem setPalSize_rle (k : Nat) (s : State) : (setPalSize k s).rle = s.rle := rfl
@[simp] theorem setPalSize_width (k : Nat) (s : State) : (setPalSize k s).width = s.width := rfl
@[simp] theorem setPalSize_height (k : Nat) (s : State) : (setPalSize k s).height = s.height := rfl
@[simp] theorem setPalSize_inLen (k : Nat) (s : State) : (setPalSize k s).inLen = s.inLen := rfl
@[simp] theorem setPalSize_outLen (k : Nat) (s : State) : (setPalSize k s).outLen = s.outLen := rfl
@[simp] theorem setPalSize_hdrLen (k : Nat) (s : State) : (setPalSize k s).hdrLen = s.hdrLen := rfl
@[simp] theorem setPalSize_palSize (k : Nat) (s : State) : (setPalSize k s).palSize = BitVec.ofNat 9 k := rfl
@[simp] theorem setPalSize_work (k : Nat) (s : State) : (setPalSize k s).work = s.work := rfl
@[simp] theorem setPalSize_pal (k : Nat) (s : State) : (setPalSize k s).pal = s.pal := rfl
@[simp] theorem setPalSize_ibuf (k : Nat) (s : State) : (setPalSize k s).ibuf = s.ibuf := rfl
@[simp] theorem setPalSize_obuf (k : Nat) (s : State) : (setPalSize k s).obuf = s.obuf := rfl
@[simp] theorem setPalSize_pmem (k : Nat) (s : State) : (setPalSize k s).pmem = s.pmem := rfl
@[simp] theorem setPalSize_job (k : Nat) (s : State) : (setPalSize k s).job = s.job := rfl
@[simp] theorem setPalSize_caps (k : Nat) (s : State) : (setPalSize k s).caps = s.caps := rfl
@[simp] theorem setPalSize_host (k : Nat) (s : State) : (setPalSize k s).host = s.host := rfl
@[simp] theorem setPalSize_resp (k : Nat) (s : State) : (setPalSize k s).resp = s.resp := rfl
@[simp] theorem setPalSize_draw (k : Nat) (s : State) : (setPalSize k s).draw = s.draw := rfl

/-! ### `writePal` -/

@[simp] theorem writePal_status (i : Nat) (p : Pixel) (s : State) : (writePal i p s).status = s.status := rfl
@[simp] theorem writePal_err (i : Nat) (p : Pixel) (s : State) : (writePal i p s).err = s.err := rfl
@[simp] theorem writePal_version (i : Nat) (p : Pixel) (s : State) : (writePal i p s).version = s.version := rfl
@[simp] theorem writePal_depth (i : Nat) (p : Pixel) (s : State) : (writePal i p s).depth = s.depth := rfl
@[simp] theorem writePal_rle (i : Nat) (p : Pixel) (s : State) : (writePal i p s).rle = s.rle := rfl
@[simp] theorem writePal_width (i : Nat) (p : Pixel) (s : State) : (writePal i p s).width = s.width := rfl
@[simp] theorem writePal_height (i : Nat) (p : Pixel) (s : State) : (writePal i p s).height = s.height := rfl
@[simp] theorem writePal_inLen (i : Nat) (p : Pixel) (s : State) : (writePal i p s).inLen = s.inLen := rfl
@[simp] theorem writePal_outLen (i : Nat) (p : Pixel) (s : State) : (writePal i p s).outLen = s.outLen := rfl
@[simp] theorem writePal_hdrLen (i : Nat) (p : Pixel) (s : State) : (writePal i p s).hdrLen = s.hdrLen := rfl
@[simp] theorem writePal_palSize (i : Nat) (p : Pixel) (s : State) : (writePal i p s).palSize = s.palSize := rfl
@[simp] theorem writePal_work (i : Nat) (p : Pixel) (s : State) : (writePal i p s).work = s.work := rfl
@[simp] theorem writePal_pal (i : Nat) (p : Pixel) (s : State) : (writePal i p s).pal = s.pal.write i p := rfl
@[simp] theorem writePal_ibuf (i : Nat) (p : Pixel) (s : State) : (writePal i p s).ibuf = s.ibuf := rfl
@[simp] theorem writePal_obuf (i : Nat) (p : Pixel) (s : State) : (writePal i p s).obuf = s.obuf := rfl
@[simp] theorem writePal_pmem (i : Nat) (p : Pixel) (s : State) : (writePal i p s).pmem = s.pmem := rfl
@[simp] theorem writePal_job (i : Nat) (p : Pixel) (s : State) : (writePal i p s).job = s.job := rfl
@[simp] theorem writePal_caps (i : Nat) (p : Pixel) (s : State) : (writePal i p s).caps = s.caps := rfl
@[simp] theorem writePal_host (i : Nat) (p : Pixel) (s : State) : (writePal i p s).host = s.host := rfl
@[simp] theorem writePal_resp (i : Nat) (p : Pixel) (s : State) : (writePal i p s).resp = s.resp := rfl
@[simp] theorem writePal_draw (i : Nat) (p : Pixel) (s : State) : (writePal i p s).draw = s.draw := rfl

/-! ### `writePixel` -/

@[simp] theorem writePixel_status (i : Nat) (p : Pixel) (s : State) : (writePixel i p s).status = s.status := rfl
@[simp] theorem writePixel_err (i : Nat) (p : Pixel) (s : State) : (writePixel i p s).err = s.err := rfl
@[simp] theorem writePixel_version (i : Nat) (p : Pixel) (s : State) : (writePixel i p s).version = s.version := rfl
@[simp] theorem writePixel_depth (i : Nat) (p : Pixel) (s : State) : (writePixel i p s).depth = s.depth := rfl
@[simp] theorem writePixel_rle (i : Nat) (p : Pixel) (s : State) : (writePixel i p s).rle = s.rle := rfl
@[simp] theorem writePixel_width (i : Nat) (p : Pixel) (s : State) : (writePixel i p s).width = s.width := rfl
@[simp] theorem writePixel_height (i : Nat) (p : Pixel) (s : State) : (writePixel i p s).height = s.height := rfl
@[simp] theorem writePixel_inLen (i : Nat) (p : Pixel) (s : State) : (writePixel i p s).inLen = s.inLen := rfl
@[simp] theorem writePixel_outLen (i : Nat) (p : Pixel) (s : State) : (writePixel i p s).outLen = s.outLen := rfl
@[simp] theorem writePixel_hdrLen (i : Nat) (p : Pixel) (s : State) : (writePixel i p s).hdrLen = s.hdrLen := rfl
@[simp] theorem writePixel_palSize (i : Nat) (p : Pixel) (s : State) : (writePixel i p s).palSize = s.palSize := rfl
@[simp] theorem writePixel_work (i : Nat) (p : Pixel) (s : State) : (writePixel i p s).work = s.work := rfl
@[simp] theorem writePixel_pal (i : Nat) (p : Pixel) (s : State) : (writePixel i p s).pal = s.pal := rfl
@[simp] theorem writePixel_ibuf (i : Nat) (p : Pixel) (s : State) : (writePixel i p s).ibuf = s.ibuf := rfl
@[simp] theorem writePixel_obuf (i : Nat) (p : Pixel) (s : State) : (writePixel i p s).obuf = s.obuf := rfl
@[simp] theorem writePixel_pmem (i : Nat) (p : Pixel) (s : State) : (writePixel i p s).pmem = s.pmem.write i p := rfl
@[simp] theorem writePixel_job (i : Nat) (p : Pixel) (s : State) : (writePixel i p s).job = s.job := rfl
@[simp] theorem writePixel_caps (i : Nat) (p : Pixel) (s : State) : (writePixel i p s).caps = s.caps := rfl
@[simp] theorem writePixel_host (i : Nat) (p : Pixel) (s : State) : (writePixel i p s).host = s.host := rfl
@[simp] theorem writePixel_resp (i : Nat) (p : Pixel) (s : State) : (writePixel i p s).resp = s.resp := rfl
@[simp] theorem writePixel_draw (i : Nat) (p : Pixel) (s : State) : (writePixel i p s).draw = s.draw := rfl

/-! ### `writeByte` -/

@[simp] theorem writeByte_status (a : Nat) (v : Byte) (s : State) : (writeByte a v s).status = s.status := rfl
@[simp] theorem writeByte_err (a : Nat) (v : Byte) (s : State) : (writeByte a v s).err = s.err := rfl
@[simp] theorem writeByte_version (a : Nat) (v : Byte) (s : State) : (writeByte a v s).version = s.version := rfl
@[simp] theorem writeByte_depth (a : Nat) (v : Byte) (s : State) : (writeByte a v s).depth = s.depth := rfl
@[simp] theorem writeByte_rle (a : Nat) (v : Byte) (s : State) : (writeByte a v s).rle = s.rle := rfl
@[simp] theorem writeByte_width (a : Nat) (v : Byte) (s : State) : (writeByte a v s).width = s.width := rfl
@[simp] theorem writeByte_height (a : Nat) (v : Byte) (s : State) : (writeByte a v s).height = s.height := rfl
@[simp] theorem writeByte_inLen (a : Nat) (v : Byte) (s : State) : (writeByte a v s).inLen = s.inLen := rfl
@[simp] theorem writeByte_outLen (a : Nat) (v : Byte) (s : State) : (writeByte a v s).outLen = s.outLen := rfl
@[simp] theorem writeByte_hdrLen (a : Nat) (v : Byte) (s : State) : (writeByte a v s).hdrLen = s.hdrLen := rfl
@[simp] theorem writeByte_palSize (a : Nat) (v : Byte) (s : State) : (writeByte a v s).palSize = s.palSize := rfl
@[simp] theorem writeByte_work (a : Nat) (v : Byte) (s : State) : (writeByte a v s).work = s.work := rfl
@[simp] theorem writeByte_pal (a : Nat) (v : Byte) (s : State) : (writeByte a v s).pal = s.pal := rfl
@[simp] theorem writeByte_ibuf (a : Nat) (v : Byte) (s : State) : (writeByte a v s).ibuf = s.ibuf.write a v := rfl
@[simp] theorem writeByte_obuf (a : Nat) (v : Byte) (s : State) : (writeByte a v s).obuf = s.obuf := rfl
@[simp] theorem writeByte_pmem (a : Nat) (v : Byte) (s : State) : (writeByte a v s).pmem = s.pmem := rfl
@[simp] theorem writeByte_job (a : Nat) (v : Byte) (s : State) : (writeByte a v s).job = s.job := rfl
@[simp] theorem writeByte_caps (a : Nat) (v : Byte) (s : State) : (writeByte a v s).caps = s.caps := rfl
@[simp] theorem writeByte_host (a : Nat) (v : Byte) (s : State) : (writeByte a v s).host = s.host := rfl
@[simp] theorem writeByte_resp (a : Nat) (v : Byte) (s : State) : (writeByte a v s).resp = s.resp := rfl
@[simp] theorem writeByte_draw (a : Nat) (v : Byte) (s : State) : (writeByte a v s).draw = s.draw := rfl

/-! ### `setPrev` -/

@[simp] theorem setPrev_status (p : Pixel) (s : State) : (setPrev p s).status = s.status := rfl
@[simp] theorem setPrev_err (p : Pixel) (s : State) : (setPrev p s).err = s.err := rfl
@[simp] theorem setPrev_version (p : Pixel) (s : State) : (setPrev p s).version = s.version := rfl
@[simp] theorem setPrev_depth (p : Pixel) (s : State) : (setPrev p s).depth = s.depth := rfl
@[simp] theorem setPrev_rle (p : Pixel) (s : State) : (setPrev p s).rle = s.rle := rfl
@[simp] theorem setPrev_width (p : Pixel) (s : State) : (setPrev p s).width = s.width := rfl
@[simp] theorem setPrev_height (p : Pixel) (s : State) : (setPrev p s).height = s.height := rfl
@[simp] theorem setPrev_inLen (p : Pixel) (s : State) : (setPrev p s).inLen = s.inLen := rfl
@[simp] theorem setPrev_outLen (p : Pixel) (s : State) : (setPrev p s).outLen = s.outLen := rfl
@[simp] theorem setPrev_hdrLen (p : Pixel) (s : State) : (setPrev p s).hdrLen = s.hdrLen := rfl
@[simp] theorem setPrev_palSize (p : Pixel) (s : State) : (setPrev p s).palSize = s.palSize := rfl
@[simp] theorem setPrev_work (p : Pixel) (s : State) : (setPrev p s).work = { s.work with prev := p } := rfl
@[simp] theorem setPrev_pal (p : Pixel) (s : State) : (setPrev p s).pal = s.pal := rfl
@[simp] theorem setPrev_ibuf (p : Pixel) (s : State) : (setPrev p s).ibuf = s.ibuf := rfl
@[simp] theorem setPrev_obuf (p : Pixel) (s : State) : (setPrev p s).obuf = s.obuf := rfl
@[simp] theorem setPrev_pmem (p : Pixel) (s : State) : (setPrev p s).pmem = s.pmem := rfl
@[simp] theorem setPrev_job (p : Pixel) (s : State) : (setPrev p s).job = s.job := rfl
@[simp] theorem setPrev_caps (p : Pixel) (s : State) : (setPrev p s).caps = s.caps := rfl
@[simp] theorem setPrev_host (p : Pixel) (s : State) : (setPrev p s).host = s.host := rfl
@[simp] theorem setPrev_resp (p : Pixel) (s : State) : (setPrev p s).resp = s.resp := rfl
@[simp] theorem setPrev_draw (p : Pixel) (s : State) : (setPrev p s).draw = s.draw := rfl

/-! ### `setRun` -/

@[simp] theorem setRun_status (v : Pixel) (n : Byte) (s : State) : (setRun v n s).status = s.status := rfl
@[simp] theorem setRun_err (v : Pixel) (n : Byte) (s : State) : (setRun v n s).err = s.err := rfl
@[simp] theorem setRun_version (v : Pixel) (n : Byte) (s : State) : (setRun v n s).version = s.version := rfl
@[simp] theorem setRun_depth (v : Pixel) (n : Byte) (s : State) : (setRun v n s).depth = s.depth := rfl
@[simp] theorem setRun_rle (v : Pixel) (n : Byte) (s : State) : (setRun v n s).rle = s.rle := rfl
@[simp] theorem setRun_width (v : Pixel) (n : Byte) (s : State) : (setRun v n s).width = s.width := rfl
@[simp] theorem setRun_height (v : Pixel) (n : Byte) (s : State) : (setRun v n s).height = s.height := rfl
@[simp] theorem setRun_inLen (v : Pixel) (n : Byte) (s : State) : (setRun v n s).inLen = s.inLen := rfl
@[simp] theorem setRun_outLen (v : Pixel) (n : Byte) (s : State) : (setRun v n s).outLen = s.outLen := rfl
@[simp] theorem setRun_hdrLen (v : Pixel) (n : Byte) (s : State) : (setRun v n s).hdrLen = s.hdrLen := rfl
@[simp] theorem setRun_palSize (v : Pixel) (n : Byte) (s : State) : (setRun v n s).palSize = s.palSize := rfl
@[simp] theorem setRun_work (v : Pixel) (n : Byte) (s : State) : (setRun v n s).work = { s.work with runVal := v, runCnt := n } := rfl
@[simp] theorem setRun_pal (v : Pixel) (n : Byte) (s : State) : (setRun v n s).pal = s.pal := rfl
@[simp] theorem setRun_ibuf (v : Pixel) (n : Byte) (s : State) : (setRun v n s).ibuf = s.ibuf := rfl
@[simp] theorem setRun_obuf (v : Pixel) (n : Byte) (s : State) : (setRun v n s).obuf = s.obuf := rfl
@[simp] theorem setRun_pmem (v : Pixel) (n : Byte) (s : State) : (setRun v n s).pmem = s.pmem := rfl
@[simp] theorem setRun_job (v : Pixel) (n : Byte) (s : State) : (setRun v n s).job = s.job := rfl
@[simp] theorem setRun_caps (v : Pixel) (n : Byte) (s : State) : (setRun v n s).caps = s.caps := rfl
@[simp] theorem setRun_host (v : Pixel) (n : Byte) (s : State) : (setRun v n s).host = s.host := rfl
@[simp] theorem setRun_resp (v : Pixel) (n : Byte) (s : State) : (setRun v n s).resp = s.resp := rfl
@[simp] theorem setRun_draw (v : Pixel) (n : Byte) (s : State) : (setRun v n s).draw = s.draw := rfl

/-! ### `setAcc` -/

@[simp] theorem setAcc_status (a : Byte) (n : BitVec 4) (s : State) : (setAcc a n s).status = s.status := rfl
@[simp] theorem setAcc_err (a : Byte) (n : BitVec 4) (s : State) : (setAcc a n s).err = s.err := rfl
@[simp] theorem setAcc_version (a : Byte) (n : BitVec 4) (s : State) : (setAcc a n s).version = s.version := rfl
@[simp] theorem setAcc_depth (a : Byte) (n : BitVec 4) (s : State) : (setAcc a n s).depth = s.depth := rfl
@[simp] theorem setAcc_rle (a : Byte) (n : BitVec 4) (s : State) : (setAcc a n s).rle = s.rle := rfl
@[simp] theorem setAcc_width (a : Byte) (n : BitVec 4) (s : State) : (setAcc a n s).width = s.width := rfl
@[simp] theorem setAcc_height (a : Byte) (n : BitVec 4) (s : State) : (setAcc a n s).height = s.height := rfl
@[simp] theorem setAcc_inLen (a : Byte) (n : BitVec 4) (s : State) : (setAcc a n s).inLen = s.inLen := rfl
@[simp] theorem setAcc_outLen (a : Byte) (n : BitVec 4) (s : State) : (setAcc a n s).outLen = s.outLen := rfl
@[simp] theorem setAcc_hdrLen (a : Byte) (n : BitVec 4) (s : State) : (setAcc a n s).hdrLen = s.hdrLen := rfl
@[simp] theorem setAcc_palSize (a : Byte) (n : BitVec 4) (s : State) : (setAcc a n s).palSize = s.palSize := rfl
@[simp] theorem setAcc_work (a : Byte) (n : BitVec 4) (s : State) : (setAcc a n s).work = { s.work with acc := a, accN := n } := rfl
@[simp] theorem setAcc_pal (a : Byte) (n : BitVec 4) (s : State) : (setAcc a n s).pal = s.pal := rfl
@[simp] theorem setAcc_ibuf (a : Byte) (n : BitVec 4) (s : State) : (setAcc a n s).ibuf = s.ibuf := rfl
@[simp] theorem setAcc_obuf (a : Byte) (n : BitVec 4) (s : State) : (setAcc a n s).obuf = s.obuf := rfl
@[simp] theorem setAcc_pmem (a : Byte) (n : BitVec 4) (s : State) : (setAcc a n s).pmem = s.pmem := rfl
@[simp] theorem setAcc_job (a : Byte) (n : BitVec 4) (s : State) : (setAcc a n s).job = s.job := rfl
@[simp] theorem setAcc_caps (a : Byte) (n : BitVec 4) (s : State) : (setAcc a n s).caps = s.caps := rfl
@[simp] theorem setAcc_host (a : Byte) (n : BitVec 4) (s : State) : (setAcc a n s).host = s.host := rfl
@[simp] theorem setAcc_resp (a : Byte) (n : BitVec 4) (s : State) : (setAcc a n s).resp = s.resp := rfl
@[simp] theorem setAcc_draw (a : Byte) (n : BitVec 4) (s : State) : (setAcc a n s).draw = s.draw := rfl

/-! ### `nextPixel` -/

@[simp] theorem nextPixel_status (s : State) : (nextPixel s).status = s.status := rfl
@[simp] theorem nextPixel_err (s : State) : (nextPixel s).err = s.err := rfl
@[simp] theorem nextPixel_version (s : State) : (nextPixel s).version = s.version := rfl
@[simp] theorem nextPixel_depth (s : State) : (nextPixel s).depth = s.depth := rfl
@[simp] theorem nextPixel_rle (s : State) : (nextPixel s).rle = s.rle := rfl
@[simp] theorem nextPixel_width (s : State) : (nextPixel s).width = s.width := rfl
@[simp] theorem nextPixel_height (s : State) : (nextPixel s).height = s.height := rfl
@[simp] theorem nextPixel_inLen (s : State) : (nextPixel s).inLen = s.inLen := rfl
@[simp] theorem nextPixel_outLen (s : State) : (nextPixel s).outLen = s.outLen := rfl
@[simp] theorem nextPixel_hdrLen (s : State) : (nextPixel s).hdrLen = s.hdrLen := rfl
@[simp] theorem nextPixel_palSize (s : State) : (nextPixel s).palSize = s.palSize := rfl
@[simp] theorem nextPixel_work (s : State) : (nextPixel s).work = { s.work with pix := s.work.pix + 1 } := rfl
@[simp] theorem nextPixel_pal (s : State) : (nextPixel s).pal = s.pal := rfl
@[simp] theorem nextPixel_ibuf (s : State) : (nextPixel s).ibuf = s.ibuf := rfl
@[simp] theorem nextPixel_obuf (s : State) : (nextPixel s).obuf = s.obuf := rfl
@[simp] theorem nextPixel_pmem (s : State) : (nextPixel s).pmem = s.pmem := rfl
@[simp] theorem nextPixel_job (s : State) : (nextPixel s).job = s.job := rfl
@[simp] theorem nextPixel_caps (s : State) : (nextPixel s).caps = s.caps := rfl
@[simp] theorem nextPixel_host (s : State) : (nextPixel s).host = s.host := rfl
@[simp] theorem nextPixel_resp (s : State) : (nextPixel s).resp = s.resp := rfl
@[simp] theorem nextPixel_draw (s : State) : (nextPixel s).draw = s.draw := rfl

/-! ### `emitBytes` -/

@[simp] theorem emitBytes_status (bs : List Byte) (s : State) : (emitBytes bs s).status = s.status := rfl
@[simp] theorem emitBytes_err (bs : List Byte) (s : State) : (emitBytes bs s).err = s.err := rfl
@[simp] theorem emitBytes_version (bs : List Byte) (s : State) : (emitBytes bs s).version = s.version := rfl
@[simp] theorem emitBytes_depth (bs : List Byte) (s : State) : (emitBytes bs s).depth = s.depth := rfl
@[simp] theorem emitBytes_rle (bs : List Byte) (s : State) : (emitBytes bs s).rle = s.rle := rfl
@[simp] theorem emitBytes_width (bs : List Byte) (s : State) : (emitBytes bs s).width = s.width := rfl
@[simp] theorem emitBytes_height (bs : List Byte) (s : State) : (emitBytes bs s).height = s.height := rfl
@[simp] theorem emitBytes_inLen (bs : List Byte) (s : State) : (emitBytes bs s).inLen = s.inLen := rfl
@[simp] theorem emitBytes_outLen (bs : List Byte) (s : State) : (emitBytes bs s).outLen = s.outLen := rfl
@[simp] theorem emitBytes_hdrLen (bs : List Byte) (s : State) : (emitBytes bs s).hdrLen = s.hdrLen := rfl
@[simp] theorem emitBytes_palSize (bs : List Byte) (s : State) : (emitBytes bs s).palSize = s.palSize := rfl
@[simp] theorem emitBytes_work (bs : List Byte) (s : State) : (emitBytes bs s).work = { s.work with wp := s.work.wp + bs.length } := rfl
@[simp] theorem emitBytes_pal (bs : List Byte) (s : State) : (emitBytes bs s).pal = s.pal := rfl
@[simp] theorem emitBytes_ibuf (bs : List Byte) (s : State) : (emitBytes bs s).ibuf = s.ibuf := rfl
@[simp] theorem emitBytes_obuf (bs : List Byte) (s : State) : (emitBytes bs s).obuf = s.obuf.writeRange s.work.wp bs := rfl
@[simp] theorem emitBytes_pmem (bs : List Byte) (s : State) : (emitBytes bs s).pmem = s.pmem := rfl
@[simp] theorem emitBytes_job (bs : List Byte) (s : State) : (emitBytes bs s).job = s.job := rfl
@[simp] theorem emitBytes_caps (bs : List Byte) (s : State) : (emitBytes bs s).caps = s.caps := rfl
@[simp] theorem emitBytes_host (bs : List Byte) (s : State) : (emitBytes bs s).host = s.host := rfl
@[simp] theorem emitBytes_resp (bs : List Byte) (s : State) : (emitBytes bs s).resp = s.resp := rfl
@[simp] theorem emitBytes_draw (bs : List Byte) (s : State) : (emitBytes bs s).draw = s.draw := rfl

/-! ### `putPixels` -/

@[simp] theorem putPixels_status (ps : List Pixel) (len : Nat) (s : State) : (putPixels ps len s).status = s.status := rfl
@[simp] theorem putPixels_err (ps : List Pixel) (len : Nat) (s : State) : (putPixels ps len s).err = s.err := rfl
@[simp] theorem putPixels_version (ps : List Pixel) (len : Nat) (s : State) : (putPixels ps len s).version = s.version := rfl
@[simp] theorem putPixels_depth (ps : List Pixel) (len : Nat) (s : State) : (putPixels ps len s).depth = s.depth := rfl
@[simp] theorem putPixels_rle (ps : List Pixel) (len : Nat) (s : State) : (putPixels ps len s).rle = s.rle := rfl
@[simp] theorem putPixels_width (ps : List Pixel) (len : Nat) (s : State) : (putPixels ps len s).width = s.width := rfl
@[simp] theorem putPixels_height (ps : List Pixel) (len : Nat) (s : State) : (putPixels ps len s).height = s.height := rfl
@[simp] theorem putPixels_inLen (ps : List Pixel) (len : Nat) (s : State) : (putPixels ps len s).inLen = s.inLen := rfl
@[simp] theorem putPixels_outLen (ps : List Pixel) (len : Nat) (s : State) : (putPixels ps len s).outLen = s.outLen := rfl
@[simp] theorem putPixels_hdrLen (ps : List Pixel) (len : Nat) (s : State) : (putPixels ps len s).hdrLen = s.hdrLen := rfl
@[simp] theorem putPixels_palSize (ps : List Pixel) (len : Nat) (s : State) : (putPixels ps len s).palSize = s.palSize := rfl
@[simp] theorem putPixels_work (ps : List Pixel) (len : Nat) (s : State) : (putPixels ps len s).work = { s.work with pix := s.work.pix + ps.length, rp := s.work.rp + len } := rfl
@[simp] theorem putPixels_pal (ps : List Pixel) (len : Nat) (s : State) : (putPixels ps len s).pal = s.pal := rfl
@[simp] theorem putPixels_ibuf (ps : List Pixel) (len : Nat) (s : State) : (putPixels ps len s).ibuf = s.ibuf := rfl
@[simp] theorem putPixels_obuf (ps : List Pixel) (len : Nat) (s : State) : (putPixels ps len s).obuf = s.obuf := rfl
@[simp] theorem putPixels_pmem (ps : List Pixel) (len : Nat) (s : State) : (putPixels ps len s).pmem = s.pmem.writeRange s.work.pix ps := rfl
@[simp] theorem putPixels_job (ps : List Pixel) (len : Nat) (s : State) : (putPixels ps len s).job = s.job := rfl
@[simp] theorem putPixels_caps (ps : List Pixel) (len : Nat) (s : State) : (putPixels ps len s).caps = s.caps := rfl
@[simp] theorem putPixels_host (ps : List Pixel) (len : Nat) (s : State) : (putPixels ps len s).host = s.host := rfl
@[simp] theorem putPixels_resp (ps : List Pixel) (len : Nat) (s : State) : (putPixels ps len s).resp = s.resp := rfl
@[simp] theorem putPixels_draw (ps : List Pixel) (len : Nat) (s : State) : (putPixels ps len s).draw = s.draw := rfl

/-! ### `finishDec` -/

@[simp] theorem finishDec_status (h : Hdr) (s : State) : (finishDec h s).status = .done := rfl
@[simp] theorem finishDec_err (h : Hdr) (s : State) : (finishDec h s).err = s.err := rfl
@[simp] theorem finishDec_version (h : Hdr) (s : State) : (finishDec h s).version = h.version := rfl
@[simp] theorem finishDec_depth (h : Hdr) (s : State) : (finishDec h s).depth = h.depth := rfl
@[simp] theorem finishDec_rle (h : Hdr) (s : State) : (finishDec h s).rle = h.rle.extractLsb' 0 1 := rfl
@[simp] theorem finishDec_width (h : Hdr) (s : State) : (finishDec h s).width = h.width := rfl
@[simp] theorem finishDec_height (h : Hdr) (s : State) : (finishDec h s).height = h.height := rfl
@[simp] theorem finishDec_inLen (h : Hdr) (s : State) : (finishDec h s).inLen = s.inLen := rfl
@[simp] theorem finishDec_outLen (h : Hdr) (s : State) : (finishDec h s).outLen = s.outLen := rfl
@[simp] theorem finishDec_hdrLen (h : Hdr) (s : State) : (finishDec h s).hdrLen = h.headerLen := rfl
@[simp] theorem finishDec_palSize (h : Hdr) (s : State) : (finishDec h s).palSize = BitVec.ofNat 9 h.k := rfl
@[simp] theorem finishDec_work (h : Hdr) (s : State) : (finishDec h s).work = freeWork s.draw := rfl
@[simp] theorem finishDec_pal (h : Hdr) (s : State) : (finishDec h s).pal = s.pal.loosen h.k fun i => freePixel (.pal i) s.draw := rfl
@[simp] theorem finishDec_ibuf (h : Hdr) (s : State) : (finishDec h s).ibuf = s.ibuf := rfl
@[simp] theorem finishDec_obuf (h : Hdr) (s : State) : (finishDec h s).obuf = s.obuf := rfl
@[simp] theorem finishDec_pmem (h : Hdr) (s : State) : (finishDec h s).pmem = s.pmem.loosen h.pixels fun i => freePixel (.pmem i) s.draw := rfl
@[simp] theorem finishDec_job (h : Hdr) (s : State) : (finishDec h s).job = .none := rfl
@[simp] theorem finishDec_caps (h : Hdr) (s : State) : (finishDec h s).caps = s.caps := rfl
@[simp] theorem finishDec_host (h : Hdr) (s : State) : (finishDec h s).host = s.host := rfl
@[simp] theorem finishDec_resp (h : Hdr) (s : State) : (finishDec h s).resp = s.resp := rfl
@[simp] theorem finishDec_draw (h : Hdr) (s : State) : (finishDec h s).draw = s.draw + 1 := rfl

/-! ### `finishEnc` -/

@[simp] theorem finishEnc_status (hl k : Nat) (s : State) : (finishEnc hl k s).status = .done := rfl
@[simp] theorem finishEnc_err (hl k : Nat) (s : State) : (finishEnc hl k s).err = s.err := rfl
@[simp] theorem finishEnc_version (hl k : Nat) (s : State) : (finishEnc hl k s).version = s.version := rfl
@[simp] theorem finishEnc_depth (hl k : Nat) (s : State) : (finishEnc hl k s).depth = s.depth := rfl
@[simp] theorem finishEnc_rle (hl k : Nat) (s : State) : (finishEnc hl k s).rle = s.rle := rfl
@[simp] theorem finishEnc_width (hl k : Nat) (s : State) : (finishEnc hl k s).width = s.width := rfl
@[simp] theorem finishEnc_height (hl k : Nat) (s : State) : (finishEnc hl k s).height = s.height := rfl
@[simp] theorem finishEnc_inLen (hl k : Nat) (s : State) : (finishEnc hl k s).inLen = s.inLen := rfl
@[simp] theorem finishEnc_outLen (hl k : Nat) (s : State) : (finishEnc hl k s).outLen = outLenOf s.work.wp := rfl
@[simp] theorem finishEnc_hdrLen (hl k : Nat) (s : State) : (finishEnc hl k s).hdrLen = BitVec.ofNat 16 hl := rfl
@[simp] theorem finishEnc_palSize (hl k : Nat) (s : State) : (finishEnc hl k s).palSize = BitVec.ofNat 9 k := rfl
@[simp] theorem finishEnc_work (hl k : Nat) (s : State) : (finishEnc hl k s).work = freeWork s.draw := rfl
@[simp] theorem finishEnc_pal (hl k : Nat) (s : State) : (finishEnc hl k s).pal = s.pal.loosen k fun i => freePixel (.pal i) s.draw := rfl
@[simp] theorem finishEnc_ibuf (hl k : Nat) (s : State) : (finishEnc hl k s).ibuf = s.ibuf := rfl
@[simp] theorem finishEnc_obuf (hl k : Nat) (s : State) : (finishEnc hl k s).obuf = s.obuf.loosen s.work.wp fun a => Config.freeBits 8 (.obuf a) s.draw := rfl
@[simp] theorem finishEnc_pmem (hl k : Nat) (s : State) : (finishEnc hl k s).pmem = s.pmem := rfl
@[simp] theorem finishEnc_job (hl k : Nat) (s : State) : (finishEnc hl k s).job = .none := rfl
@[simp] theorem finishEnc_caps (hl k : Nat) (s : State) : (finishEnc hl k s).caps = s.caps := rfl
@[simp] theorem finishEnc_host (hl k : Nat) (s : State) : (finishEnc hl k s).host = s.host := rfl
@[simp] theorem finishEnc_resp (hl k : Nat) (s : State) : (finishEnc hl k s).resp = s.resp := rfl
@[simp] theorem finishEnc_draw (hl k : Nat) (s : State) : (finishEnc hl k s).draw = s.draw + 1 := rfl

/-! ### `loseOutputs` and `raise`: what does not depend on the command in progress -/

@[simp] theorem loseOutputs_status (s : State) : (loseOutputs s).status = s.status := by
  unfold loseOutputs; split <;> rfl
@[simp] theorem loseOutputs_err (s : State) : (loseOutputs s).err = s.err := by
  unfold loseOutputs; split <;> rfl
@[simp] theorem loseOutputs_inLen (s : State) : (loseOutputs s).inLen = s.inLen := by
  unfold loseOutputs; split <;> rfl
@[simp] theorem loseOutputs_work (s : State) : (loseOutputs s).work = s.work := by
  unfold loseOutputs; split <;> rfl
@[simp] theorem loseOutputs_ibuf (s : State) : (loseOutputs s).ibuf = s.ibuf := by
  unfold loseOutputs; split <;> rfl
@[simp] theorem loseOutputs_job (s : State) : (loseOutputs s).job = s.job := by
  unfold loseOutputs; split <;> rfl
@[simp] theorem loseOutputs_caps (s : State) : (loseOutputs s).caps = s.caps := by
  unfold loseOutputs; split <;> rfl
@[simp] theorem loseOutputs_host (s : State) : (loseOutputs s).host = s.host := by
  unfold loseOutputs; split <;> rfl
@[simp] theorem loseOutputs_resp (s : State) : (loseOutputs s).resp = s.resp := by
  unfold loseOutputs; split <;> rfl
@[simp] theorem loseOutputs_draw (s : State) : (loseOutputs s).draw = s.draw := by
  unfold loseOutputs; split <;> rfl
@[simp] theorem raise_status (e : ErrKind) (s : State) : (raise e s).status = .error := rfl
@[simp] theorem raise_err (e : ErrKind) (s : State) : (raise e s).err = e := rfl
@[simp] theorem raise_inLen (e : ErrKind) (s : State) : (raise e s).inLen = s.inLen := by simp [raise]
@[simp] theorem raise_work (e : ErrKind) (s : State) : (raise e s).work = freeWork s.draw := by simp [raise]
@[simp] theorem raise_ibuf (e : ErrKind) (s : State) : (raise e s).ibuf = s.ibuf := by simp [raise]
@[simp] theorem raise_job (e : ErrKind) (s : State) : (raise e s).job = .none := rfl
@[simp] theorem raise_caps (e : ErrKind) (s : State) : (raise e s).caps = s.caps := by simp [raise]
@[simp] theorem raise_host (e : ErrKind) (s : State) : (raise e s).host = s.host := by simp [raise]
@[simp] theorem raise_resp (e : ErrKind) (s : State) : (raise e s).resp = s.resp := by simp [raise]
@[simp] theorem raise_draw (e : ErrKind) (s : State) : (raise e s).draw = s.draw + 1 := by simp [raise]

/-! ### `resetEngine` -/

@[simp] theorem resetEngine_status (s : State) : (resetEngine s).status = State.reset.status := rfl
@[simp] theorem resetEngine_err (s : State) : (resetEngine s).err = State.reset.err := rfl
@[simp] theorem resetEngine_version (s : State) : (resetEngine s).version = State.reset.version := rfl
@[simp] theorem resetEngine_depth (s : State) : (resetEngine s).depth = State.reset.depth := rfl
@[simp] theorem resetEngine_rle (s : State) : (resetEngine s).rle = State.reset.rle := rfl
@[simp] theorem resetEngine_width (s : State) : (resetEngine s).width = State.reset.width := rfl
@[simp] theorem resetEngine_height (s : State) : (resetEngine s).height = State.reset.height := rfl
@[simp] theorem resetEngine_inLen (s : State) : (resetEngine s).inLen = State.reset.inLen := rfl
@[simp] theorem resetEngine_outLen (s : State) : (resetEngine s).outLen = State.reset.outLen := rfl
@[simp] theorem resetEngine_hdrLen (s : State) : (resetEngine s).hdrLen = State.reset.hdrLen := rfl
@[simp] theorem resetEngine_palSize (s : State) : (resetEngine s).palSize = State.reset.palSize := rfl
@[simp] theorem resetEngine_work (s : State) : (resetEngine s).work = State.reset.work := rfl
@[simp] theorem resetEngine_pal (s : State) : (resetEngine s).pal = State.reset.pal := rfl
@[simp] theorem resetEngine_ibuf (s : State) : (resetEngine s).ibuf = State.reset.ibuf := rfl
@[simp] theorem resetEngine_obuf (s : State) : (resetEngine s).obuf = State.reset.obuf := rfl
@[simp] theorem resetEngine_pmem (s : State) : (resetEngine s).pmem = State.reset.pmem := rfl
@[simp] theorem resetEngine_job (s : State) : (resetEngine s).job = State.reset.job := rfl
@[simp] theorem resetEngine_caps (s : State) : (resetEngine s).caps = s.caps := rfl
@[simp] theorem resetEngine_host (s : State) : (resetEngine s).host = s.host := rfl
@[simp] theorem resetEngine_resp (s : State) : (resetEngine s).resp = s.resp := rfl
@[simp] theorem resetEngine_draw (s : State) : (resetEngine s).draw = s.draw := rfl

end Sys2Proof.Machine
end

