-- ==== Sys2Proof/Laws/Ops.lean ====
section
/-! SUPPORT. For each shared operation, once, everything it can do. Proofs cite these instead of unfolding it. -/

namespace Sys2Proof.Machine

/-! ### Outcomes -/

/-- An engine step goes on by completing, or by raising an error from the state before it. -/
theorem settle_next {s t : State} {r : Except Stop State} (h : settle s r = .next t) :
    r = .ok t ∨ ∃ e, r = .error (.err e) ∧ t = raise e s := by
  rcases r with (e | f) | u <;> simp_all [settle]

@[simp] theorem settle_ok (s t : State) : settle s (.ok t) = .next t := rfl
@[simp] theorem settle_err (s : State) (e : ErrKind) : settle s (.error (.err e)) = .next (raise e s) := rfl
@[simp] theorem settle_fault (s : State) (f : Fault) : settle s (.error (.fault f)) = .fault f := rfl

theorem settle_not_refused (s : State) (r : Except Stop State) (x : Refusal) : settle s r ≠ .refused x := by
  rcases r with (e | f) | u <;> simp [settle]

/-! ### Capacities -/

@[simp] theorem fits_none (n : Nat) : fits n none = true := rfl
@[simp] theorem fits_some (n c : Nat) : fits n (some c) = true ↔ n ≤ c := by simp [fits]

theorem fits_le {n m : Nat} {c : Option Nat} (h : fits n c = true) (hm : m ≤ n) : fits m c = true := by
  cases c <;> simp_all; omega

@[simp] theorem fits_zero (c : Option Nat) : fits 0 c = true := by cases c <;> simp

/-! ### Emission -/

/-- `emit` writes the bytes at `WP` and advances it, or overflows. -/
theorem emit_ok {bs : List Byte} {s t : State} (h : emit bs s = .ok t) :
    fits (s.work.wp + bs.length) s.caps.obuf = true ∧
    t = emitBytes bs s := by
  unfold emit at h
  split at h
  · exact ⟨‹_›, by cases h; rfl⟩
  · cases h

theorem emit_error {bs : List Byte} {s : State} {e : Stop} (h : emit bs s = .error e) : e = .err .bufferOverflow := by
  unfold emit at h
  split at h <;> cases h
  rfl

theorem emit_of_fits {bs : List Byte} {s : State} (h : fits (s.work.wp + bs.length) s.caps.obuf = true) :
    emit bs s = .ok (emitBytes bs s) := by
  simp [emit, h]

theorem emit_of_not_fits {bs : List Byte} {s : State} (h : ¬ fits (s.work.wp + bs.length) s.caps.obuf = true) :
    emit bs s = .error (.err .bufferOverflow) := by
  unfold emit; rw [if_neg h]

/-! ### Pixels and palette -/

theorem readPixel_ok {i : Nat} {s : State} {p : Pixel} : readPixel i s = .ok p ↔ s.pmem.read i = some p := by
  unfold readPixel; split <;> simp_all

theorem readPixel_error {i : Nat} {s : State} {e : Stop} (h : readPixel i s = .error e) :
    s.pmem.read i = none ∧ e = .fault (.unwritten .pmem i) := by
  unfold readPixel at h; split at h <;> simp_all

/-- `PaletteLookup` succeeds exactly on a valid, written entry (R112). -/
theorem paletteLookup_ok {i : Nat} {s : State} {p : Pixel} :
    paletteLookup i s = .ok p ↔ i < s.palSize.toNat ∧ s.pal.read i = some p := by
  unfold paletteLookup
  split
  · simp; omega
  · split <;> simp_all

theorem paletteLookup_error {i : Nat} {s : State} {e : Stop} (h : paletteLookup i s = .error e) :
    (s.palSize.toNat ≤ i ∧ e = .err .formatError) ∨
    (i < s.palSize.toNat ∧ s.pal.read i = none ∧ e = .fault (.unwritten .pal i)) := by
  unfold paletteLookup at h
  split at h
  · simp_all
  · split at h <;> simp_all

/-- A palette scan that finds `p` finds its first place in the scanned range. -/
theorem paletteScan_some {pal : Memory Pixel} {p : Pixel} {n j q : Nat} (h : paletteScan pal p j n = .ok (some q)) :
    j ≤ q ∧ q < j + n ∧ pal.read q = some p ∧ ∀ i, j ≤ i → i < q → pal.read i ≠ some p := by
  induction n generalizing j with
  | zero => simp [paletteScan] at h
  | succ n ih =>
    simp only [paletteScan] at h
    split at h
    · cases h
    · rename_i x hx
      split at h
      · rename_i hxp
        cases h
        exact ⟨le_rfl, by omega, by rw [hx, hxp], fun i h1 h2 => by omega⟩
      · obtain ⟨h1, h2, h3, h4⟩ := ih h
        refine ⟨by omega, by omega, h3, fun i hi hq => ?_⟩
        rcases Nat.eq_or_lt_of_le hi with rfl | hlt
        · rw [hx]; simpa using ‹x ≠ p›
        · exact h4 i (by omega) hq

/-- A palette scan that finds nothing has read every entry of the range, and none is `p`. -/
theorem paletteScan_none {pal : Memory Pixel} {p : Pixel} {n j : Nat} (h : paletteScan pal p j n = .ok none) :
    ∀ i, j ≤ i → i < j + n → ∃ q, pal.read i = some q ∧ q ≠ p := by
  induction n generalizing j with
  | zero => intro i h1 h2; omega
  | succ n ih =>
    simp only [paletteScan] at h
    split at h
    · cases h
    · rename_i x hx
      split at h
      · cases h
      · intro i h1 h2
        rcases Nat.eq_or_lt_of_le h1 with rfl | hlt
        · exact ⟨x, hx, ‹_›⟩
        · exact ih h i (by omega) (by omega)

/-- A palette scan fails only at an entry that nothing wrote. -/
theorem paletteScan_error {pal : Memory Pixel} {p : Pixel} {n j : Nat} {e : Stop} (h : paletteScan pal p j n = .error e) :
    ∃ i, j ≤ i ∧ i < j + n ∧ pal.read i = none ∧ e = .fault (.unwritten .pal i) := by
  induction n generalizing j with
  | zero => simp [paletteScan] at h
  | succ n ih =>
    simp only [paletteScan] at h
    split at h
    · cases h; exact ⟨j, le_rfl, by omega, ‹_›, rfl⟩
    · split at h
      · cases h
      · obtain ⟨i, h1, h2, h3⟩ := ih h
        exact ⟨i, by omega, by omega, h3⟩

/-- `PaletteIndex` answers the first valid entry that equals the pixel (R110). -/
theorem paletteIndex_ok {p : Pixel} {s : State} {j : Nat} (h : paletteIndex p s = .ok j) :
    j < s.palSize.toNat ∧ s.pal.read j = some p ∧ ∀ i < j, s.pal.read i ≠ some p := by
  unfold paletteIndex at h
  split at h
  · cases h
  · cases h
    obtain ⟨_, h2, h3, h4⟩ := paletteScan_some ‹_›
    exact ⟨by omega, h3, fun i hi => h4 i (by omega) hi⟩
  · cases h

/-- `PaletteLookup` of several indices answers their entries, in order. -/
theorem paletteLookups_ok {is : List Nat} {s : State} {ps : List Pixel} :
    paletteLookups is s = .ok ps ↔ List.Forall₂ (fun i p => i < s.palSize.toNat ∧ s.pal.read i = some p) is ps := by
  induction is generalizing ps with
  | nil => simp [paletteLookups, eq_comm]
  | cons i is ih =>
    simp only [paletteLookups]
    cases h : paletteLookup i s with
    | error e =>
      simp only [reduceCtorEq, false_iff]
      intro hf
      cases hf with
      | cons h1 _ => rw [paletteLookup_ok.2 h1] at h; cases h
    | ok p =>
      have hp := paletteLookup_ok.1 h
      cases h' : paletteLookups is s with
      | error e =>
        simp only [reduceCtorEq, false_iff]
        intro hf
        cases hf with
        | cons _ h2 => rw [ih.2 h2] at h'; cases h'
      | ok qs =>
        have hq := ih.1 h'
        constructor
        · intro e; cases e; exact .cons hp hq
        · intro hf
          cases hf with
          | cons h1 h2 =>
            have := ih.2 h2
            rw [h'] at this
            cases this
            rw [hp.2] at h1
            cases h1.2
            rfl

theorem paletteLookups_length {is : List Nat} {s : State} {ps : List Pixel} (h : paletteLookups is s = .ok ps) :
    ps.length = is.length :=
  (paletteLookups_ok.1 h).length_eq.symm

/-! ### Records of a stream -/

/-- A record goes on only in a stream of its kind: left over, or by its own body. -/
theorem inStream_next {mn : String} {kind : RecordKind} {s t : State} {body : Hdr → Except Stop State}
    (h : inStream mn kind s body = .next t) :
    ∃ hd, s.job = .decStream hd ∧ hd.kind = kind ∧
      ((hd.pixels ≤ s.work.pix ∧ t = raise .pixelCountMismatch s) ∨
       (s.work.pix < hd.pixels ∧ settle s (body hd) = .next t)) := by
  unfold inStream at h
  split at h
  · rename_i hd hj
    split at h
    · rename_i hk
      refine ⟨hd, hj, hk, ?_⟩
      split at h
      · simp only [settle_err, Host.Outcome.next.injEq] at h
        exact .inl ⟨‹_›, h.symm⟩
      · exact .inr ⟨by omega, h⟩
    · cases h
  · cases h

/-- A record in a stream of its kind, while a pixel is still needed, does what its body does. -/
theorem inStream_of_job {mn : String} {kind : RecordKind} {s : State} {hd : Hdr} {body : Hdr → Except Stop State}
    (hj : s.job = .decStream hd) (hk : hd.kind = kind) (hp : s.work.pix < hd.pixels) :
    inStream mn kind s body = settle s (body hd) := by
  simp only [inStream, hj, hk, if_true]
  rw [if_neg (by omega)]

/-! ### Fetch -/

/-- A fetch brings bytes exactly when the whole record lies below `IN_LEN` and has been written. -/
theorem fetchRecord_bytes {c : Ctx} {s : State} {bs : List Byte} (h : fetchRecord c s = .bytes bs) :
    ∃ pre, s.ibuf.readRange s.work.rp (needBytes c) = some pre ∧
      s.work.rp + recordLen c pre ≤ s.inLen.toNat ∧ s.work.rp + needBytes c ≤ s.inLen.toNat ∧
      s.ibuf.readRange s.work.rp (recordLen c pre) = some bs := by
  unfold fetchRecord at h
  split at h
  · cases h
  · split at h
    · cases h
    · rename_i pre hpre
      split at h
      · cases h
      · split at h
        · cases h
        · cases h; exact ⟨pre, hpre, by omega, by omega, ‹_›⟩

/-- The decoder answers an instruction of the context it was given. -/
theorem decode_ctx {c : Ctx} {bs rest : List Byte} {i : Instr} (h : decode c bs = .ok (i, rest)) : ctxOf i = c := by
  unfold decode at h
  split at h
  · cases h
    unfold decodeCmd
    split_ifs <;> rfl
  · cases h
  · unfold decodeHeader at h
    split at h
    · split_ifs at h
      · split at h
        · split_ifs at h
          cases h; rfl
        · cases h
      · split at h
        · cases h; rfl
        · cases h
    · cases h
  · cases h; rfl
  · cases h
  · unfold decodeRecord at h
    split at h
    all_goals (try (cases h; rfl))
    · unfold decodeDelta at h
      split at h
      · cases h
      · split_ifs at h
        all_goals (try (cases h; rfl))
        all_goals
          split at h <;> cases h
          rfl
    · cases h

/-- What entering the pixel stream can do, and when. -/
theorem beginStream_cases (h : Hdr) (s : State) :
    (beginStream h s = .error (.err .bufferOverflow) ∧ fits h.pixels s.caps.pmem = false) ∨
    (beginStream h s = .error (.err .pixelCountMismatch) ∧ fits h.pixels s.caps.pmem = true) ∨
    (beginStream h s = .ok (setJob (.decStream h) s) ∧ fits h.pixels s.caps.pmem = true) := by
  unfold beginStream
  split
  · left; simp_all
  · split
    · split <;> simp_all
    · simp_all

/-- A record step raises an engine error from the state before it, or executes the instruction that was decoded. -/
theorem runRecordAt_next {c : Ctx} {s t : State} (h : runRecordAt c s = .next t) :
    (∃ e, e ≠ .none ∧ e ≠ .indexOutOfBounds ∧ t = raise e s) ∨
    ∃ i bs rest, fetchRecord c s = .bytes bs ∧ decode c bs = .ok (i, rest) ∧ ctxOf i = c ∧ exec i s = .next t := by
  unfold runRecordAt at h
  split at h
  · cases h
    exact .inl ⟨_, by cases c <;> simp [shortError], by cases c <;> simp [shortError], rfl⟩
  · cases h
  · rename_i hf
    split at h
    · cases h; exact .inl ⟨_, by simp, by simp, rfl⟩
    · rename_i hd
      exact .inr ⟨_, _, _, hf, hd, decode_ctx hd, h⟩

/-- Where every entry before the `j`-th is written and not `p`, the scan stops at the `j`-th if that is missing or is
`p`. -/
theorem paletteScan_stop {pal : Memory Pixel} {p : Pixel} {n j : Nat} : ∀ {k : Nat}, j < n →
    (∀ i < j, pal.read (k + i) ≠ none ∧ pal.read (k + i) ≠ some p) →
    (pal.read (k + j) = none → paletteScan pal p k n = .error (.fault (.unwritten .pal (k + j)))) ∧
    (pal.read (k + j) = some p → paletteScan pal p k n = .ok (some (k + j))) := by
  induction n generalizing j with
  | zero => intro k hj; omega
  | succ n ih =>
    intro k hj hb
    unfold paletteScan
    cases j with
    | zero => constructor <;> intro h <;> simp only [Nat.add_zero] at h <;> simp [h]
    | succ j =>
      obtain ⟨h1, h2⟩ := hb 0 (by omega)
      rw [Nat.add_zero] at h1 h2
      obtain ⟨q, hq⟩ := Option.ne_none_iff_exists'.1 h1
      have hne : q ≠ p := fun e => h2 (e ▸ hq)
      have hk : k + (j + 1) = k + 1 + j := by omega
      simp only [hq, hne, if_false, hk]
      exact ih (by omega) fun i hi => by
        have := hb (i + 1) (by omega)
        rwa [show k + (i + 1) = k + 1 + i by omega] at this

/-- A one-bit register is 0 or 1. -/
theorem bit_cases (r : BitVec 1) : r = 0 ∨ r = 1 := by
  rcases (show r.toNat = 0 ∨ r.toNat = 1 by omega) with h | h
  · exact .inl (BitVec.eq_of_toNat_eq h)
  · exact .inr (BitVec.eq_of_toNat_eq h)

/-- The rows of the stream selection are what the encoder selects (R64, R186). -/
theorem selects_streamKind {v d : Byte} {r : BitVec 1} {kind : RecordKind} (h : Selects v d r kind) :
    streamKind v d (effectiveRle d r) = some kind := by
  rcases h with ⟨rfl, rfl⟩ | ⟨rfl, rfl⟩ | ⟨rfl, rfl⟩ | ⟨rfl, h⟩
  · rfl
  · rfl
  · rfl
  · rcases h with ⟨rfl, rfl, rfl⟩ | ⟨rfl, rfl, rfl⟩ | ⟨rfl, rfl, rfl⟩ | ⟨rfl, rfl, rfl⟩ | ⟨rfl, rfl⟩ | ⟨rfl, rfl⟩ | ⟨rfl, rfl⟩
    all_goals rfl

/-- Every legal configuration has a row of the stream selection (R64, R181). -/
theorem selects_of_legal {v d : Byte} (r : BitVec 1) (h : legalConfig v d) : ∃ kind, Selects v d r kind := by
  obtain ⟨rfl | rfl | rfl | rfl, hd⟩ := h
  · exact ⟨.pix, by simp [Selects]⟩
  · exact ⟨.run, by simp [Selects]⟩
  · rcases hd rfl with rfl | rfl | rfl | rfl | rfl
    · exact ⟨.pack1, by simp [Selects]⟩
    · exact ⟨.pack2, by simp [Selects]⟩
    · exact ⟨.pack4, by simp [Selects]⟩
    · rcases bit_cases r with rfl | rfl
      · exact ⟨.idx, by simp [Selects]⟩
      · exact ⟨.runi, by simp [Selects]⟩
    · rcases bit_cases r with rfl | rfl
      · exact ⟨.pix, by simp [Selects]⟩
      · exact ⟨.run, by simp [Selects]⟩
  · exact ⟨.delta, by simp [Selects]⟩

end Sys2Proof.Machine
end

