-- ==== Sys2Proof/Laws/PerInstr.lean ====
section
/-! SUPPORT. One lemma per instruction: the length that the decoder finds from the first bytes of a well-formed
instruction is the length of its encoding (spec/30 R64, R84; spec/10 R22). -/

namespace Sys2Proof.Laws

/-- The decoder's record length is the encoded length. -/
def EncodeLength.Statement (i : Instr) : Prop :=
  WellFormed i → recordLen (ctxOf i) (encode i) = (encode i).length

/-! ### Fields of a byte built from a number -/

theorem byteOf_toNat {n : Nat} (h : n < 256) : (byteOf n).toNat = n := by
  simp only [byteOf, BitVec.toNat_ofNat]; omega

theorem byteOf_ne_ff {n : Nat} (h : n < 255) : byteOf n ≠ 0xFF := by
  intro e
  have := congrArg BitVec.toNat e
  rw [byteOf_toNat (by omega)] at this
  simp at this; omega

/-- The length of a block from its first byte as a number below 0xB0 (R84). -/
theorem deltaLen_byteOf {n : Nat} (h : n < 0xB0) :
    deltaLen (byteOf n) = if n < 0x40 then 1 else if n < 0x80 then 2 else 3 := by
  have hb := byteOf_toNat (show n < 256 by omega)
  simp only [deltaLen, byteOf_ne_ff (show n < 255 by omega), if_false, field, hb]
  split_ifs <;> omega

/-! ### Headers and palette entries -/

theorem EncodeLength.hdr12 (v : Byte) (w h : Half) : EncodeLength.Statement (.hdr12 v w h) := by
  intro hw
  have hv : v = 1 ∨ v = 2 ∨ v = 4 := by simpa [WellFormed, isWellFormed] using hw
  rcases hv with rfl | rfl | rfl <;> rfl

theorem EncodeLength.hdr3 (hl w h : Half) (d f : Byte) : EncodeLength.Statement (.hdr3 hl w h d f) := by
  intro _
  simp [recordLen, ctxOf, encode, headerFixedLen, magic, le16Bytes]

theorem EncodeLength.pal (r g b : Byte) : EncodeLength.Statement (.pal r g b) := fun _ => rfl

/-! ### Records without a tag -/

theorem EncodeLength.pix (r g b : Byte) : EncodeLength.Statement (.pix r g b) := fun _ => rfl

theorem EncodeLength.run (n r g b : Byte) : EncodeLength.Statement (.run n r g b) := fun _ => rfl

theorem EncodeLength.idx (i : Byte) : EncodeLength.Statement (.idx i) := fun _ => rfl

theorem EncodeLength.runi (n i : Byte) : EncodeLength.Statement (.runi n i) := fun _ => rfl

theorem EncodeLength.pack1 (a b c d e f g h : BitVec 1) : EncodeLength.Statement (.pack1 a b c d e f g h) := fun _ => rfl

theorem EncodeLength.pack2 (a b c d : BitVec 2) : EncodeLength.Statement (.pack2 a b c d) := fun _ => rfl

theorem EncodeLength.pack4 (a b : BitVec 4) : EncodeLength.Statement (.pack4 a b) := fun _ => rfl

/-! ### Version 4 blocks -/

theorem EncodeLength.small (dr dg db : Int) : EncodeLength.Statement (.small dr dg db) := by
  intro hw
  simp only [WellFormed, isWellFormed, decide_eq_true_eq, within] at hw
  simp only [recordLen, ctxOf, encode, List.headD_cons, bias, List.length_singleton]
  rw [deltaLen_byteOf (by omega), if_pos (by omega)]

theorem EncodeLength.inter (dr dg db : Int) : EncodeLength.Statement (.inter dr dg db) := by
  intro hw
  simp only [WellFormed, isWellFormed, decide_eq_true_eq, within] at hw
  simp only [recordLen, ctxOf, encode, List.headD_cons, bias, List.length_cons, List.length_nil]
  rw [deltaLen_byteOf (by omega), if_neg (by omega), if_pos (by omega)]

/-- The three primary channels share one layout. -/
theorem bigBytes_length_ok {tag p s1 s2 : Nat} (ht : 8 ≤ tag) (ht' : tag ≤ 10) (hp : p < 256) :
    recordLen (.stream .delta) (bigBytes tag p s1 s2) = (bigBytes tag p s1 s2).length := by
  simp only [recordLen, bigBytes, List.headD_cons, List.length_cons, List.length_nil]
  rw [deltaLen_byteOf (by omega), if_neg (by omega), if_neg (by omega)]

theorem EncodeLength.bigr (dr dg db : Int) : EncodeLength.Statement (.bigr dr dg db) := by
  intro hw
  simp only [WellFormed, isWellFormed, decide_eq_true_eq, within] at hw
  exact bigBytes_length_ok (by omega) (by omega) (by simp only [bias]; omega)

theorem EncodeLength.bigg (dr dg db : Int) : EncodeLength.Statement (.bigg dr dg db) := by
  intro hw
  simp only [WellFormed, isWellFormed, decide_eq_true_eq, within] at hw
  exact bigBytes_length_ok (by omega) (by omega) (by simp only [bias]; omega)

theorem EncodeLength.bigb (dr dg db : Int) : EncodeLength.Statement (.bigb dr dg db) := by
  intro hw
  simp only [WellFormed, isWellFormed, decide_eq_true_eq, within] at hw
  exact bigBytes_length_ok (by omega) (by omega) (by simp only [bias]; omega)

theorem EncodeLength.new (r g b : Byte) : EncodeLength.Statement (.new r g b) := fun _ => rfl

theorem EncodeLength.reservedV4 (b0 : Byte) : EncodeLength.Statement (.reservedV4 b0) := by
  intro hw
  simp only [WellFormed, isWellFormed, decide_eq_true_eq] at hw
  have hne : b0 ≠ 0xFF := by rintro rfl; simp at hw
  have h0 : field b0 6 2 ≠ 0 := by simp only [field]; omega
  have h1 : field b0 6 2 ≠ 1 := by simp only [field]; omega
  have h2 : ¬ (field b0 4 4 = 8 ∨ field b0 4 4 = 9 ∨ field b0 4 4 = 10) := by simp only [field]; omega
  simp only [recordLen, ctxOf, encode, List.headD_cons, List.length_singleton, deltaLen, hne, h0, h1, h2, if_false]

/-! ### Commands -/

theorem EncodeLength.nop : EncodeLength.Statement .nop := fun _ => rfl

theorem EncodeLength.enc : EncodeLength.Statement .enc := fun _ => rfl

theorem EncodeLength.dec : EncodeLength.Statement .dec := fun _ => rfl

theorem EncodeLength.clr : EncodeLength.Statement .clr := fun _ => rfl

end Sys2Proof.Laws
end

