-- ==== Sys2Proof/Tests/Slice0.lean ====
section
/-! SUPPORT. Tests. Expected values come from spec/95 and the examples of the rules; each theorem is about one decoding,
one step or one function call. `witness_<Name>` meets the hypotheses of the statement `Obligations.<Name>`, each clause
at a boundary of its range. -/

namespace Sys2Proof.Tests

open Sys2Proof Sys2Proof.Machine

-- One theorem after another: theorems that wait for each other's kernel evaluation would each hold a thread.
set_option Elab.async false

/-! ### WellFormed refuses each ill-formed term (R70, R86) -/

theorem test_wf_hdr12_version : isWellFormed (.hdr12 3 1 1) = false := by decide
theorem test_wf_hdr3_depth : isWellFormed (.hdr3 14 1 1 3 0) = false := by decide
theorem test_wf_hdr3_flag : isWellFormed (.hdr3 14 1 1 8 2) = false := by decide
theorem test_wf_hdr3_combination : isWellFormed (.hdr3 14 1 1 4 1) = false := by decide
theorem test_wf_hdr3_length24 : isWellFormed (.hdr3 17 1 1 24 0) = false := by decide
theorem test_wf_hdr3_length_step : isWellFormed (.hdr3 15 1 1 8 0) = false := by decide
theorem test_wf_hdr3_entries : isWellFormed (.hdr3 23 1 1 1 0) = false := by decide
theorem test_wf_hdr3_full : isWellFormed (.hdr3 20 1 1 1 0) = true := by decide
theorem test_wf_run : isWellFormed (.run 0 1 2 3) = false := by decide
theorem test_wf_runi : isWellFormed (.runi 0 1) = false := by decide
theorem test_wf_small : isWellFormed (.small 2 0 0) = false := by decide
theorem test_wf_inter : isWellFormed (.inter 8 0 0) = false := by decide
theorem test_wf_bigr : isWellFormed (.bigr 33 0 0) = false := by decide
theorem test_wf_bigg : isWellFormed (.bigg 0 (-129) 0) = false := by decide
theorem test_wf_bigb : isWellFormed (.bigb 0 32 0) = false := by decide
theorem test_wf_reserved : isWellFormed (.reservedV4 0xFF) = false := by decide

/-! ### Decoding of words written out from the layouts -/

/-- 300 = 0x012C is stored as `2C 01` (R41). -/
theorem test_decode_hdr12 : decode .header [0x55, 0x4C, 0x42, 0x4D, 0x50, 4, 0x0C, 0, 0x2C, 1, 2, 0] =
    .ok (.hdr12 4 300 2, []) := by decide +kernel
/-- The header of P3 (spec/95): header length 26, 3 by 3, depth 2, flag 0. -/
theorem test_decode_hdr3 : decode .header [0x55, 0x4C, 0x42, 0x4D, 0x50, 3, 0x1A, 0, 3, 0, 3, 0, 2, 0, 7] =
    .ok (.hdr3 26 3 3 2 0, [7]) := by decide +kernel
theorem test_decode_pal : decode .palette [0xFF, 0, 7] = .ok (.pal 255 0 7, []) := by decide +kernel
theorem test_decode_pix : decode (.stream .pix) [0x12, 0x34, 0x56, 9] = .ok (.pix 18 52 86, [9]) := by decide +kernel
theorem test_decode_run : decode (.stream .run) [0xFF, 7, 8, 9] = .ok (.run 255 7 8 9, []) := by decide +kernel
theorem test_decode_idx : decode (.stream .idx) [2, 1] = .ok (.idx 2, [1]) := by decide +kernel
theorem test_decode_runi : decode (.stream .runi) [3, 0] = .ok (.runi 3 0, []) := by decide +kernel
/-- 0b0110_0000 (R190). -/
theorem test_decode_pack1 : decode (.stream .pack1) [0x60] = .ok (.pack1 0 1 1 0 0 0 0 0, []) := by decide +kernel
/-- 0xCA = 11 00 10 10 (P3). -/
theorem test_decode_pack2 : decode (.stream .pack2) [0xCA] = .ok (.pack2 3 0 2 2, []) := by decide +kernel
/-- 0x56 (P6). -/
theorem test_decode_pack4 : decode (.stream .pack4) [0x56] = .ok (.pack4 5 6, []) := by decide +kernel
/-- 00 11 00 10 (R133). -/
theorem test_decode_small : decode (.stream .delta) [0x32] = .ok (.small 1 (-2) 0, []) := by decide +kernel
/-- 01 101010, 0011 0001 (R134). -/
theorem test_decode_inter : decode (.stream .delta) [0x6A, 0x31] = .ok (.inter 5 10 3, []) := by decide +kernel
theorem test_decode_bigr : decode (.stream .delta) [0x84, 0x4A, 0xB4] = .ok (.bigr (-60) (-50) (-40), []) := by
  decide +kernel
theorem test_decode_bigg : decode (.stream .delta) [0x9A, 0x8F, 0x8C] = .ok (.bigg 70 40 20, []) := by decide +kernel
theorem test_decode_bigb : decode (.stream .delta) [0xA9, 0x40, 0xBE] = .ok (.bigb (-10) 50 20, []) := by
  decide +kernel
theorem test_decode_new : decode (.stream .delta) [0xFF, 5, 6, 7] = .ok (.new 5 6 7, []) := by decide +kernel
theorem test_decode_reserved_first : decode (.stream .delta) [0xB0] = .ok (.reservedV4 0xB0, []) := by decide +kernel
theorem test_decode_reserved_last : decode (.stream .delta) [0xFE] = .ok (.reservedV4 0xFE, []) := by decide +kernel
theorem test_decode_commands : decode .cmd [0] = .ok (.nop, []) ∧ decode .cmd [1] = .ok (.enc, []) ∧
    decode .cmd [2] = .ok (.dec, []) ∧ decode .cmd [3] = .ok (.clr, []) := by decide +kernel
theorem test_decode_rejects : decode .header [0x55, 0x4C, 0x42, 0x4D, 0x51, 1] = .error .badMagic ∧
    decode .header [0x55, 0x4C, 0x42, 0x4D, 0x50, 5] = .error .badVersion ∧
    decode .header [0x55, 0x4C, 0x42, 0x4D, 0x50, 1, 14, 0, 1, 0, 1, 0] = .error .badHeaderLen ∧
    decode (.stream .delta) [0xFF, 1, 2] = .error .short := by decide +kernel
/-- The same in the other direction (P3, P5). -/
theorem test_encode : encode (.hdr3 26 3 3 2 0) = [0x55, 0x4C, 0x42, 0x4D, 0x50, 3, 0x1A, 0, 3, 0, 3, 0, 2, 0] ∧
    encode (.bigb (-10) 50 20) = [0xA9, 0x40, 0xBE] ∧ encode (.pack2 0 1 2 1) = [0x19] := by decide +kernel

/-! ### Small states -/

/-- The header of an image of `n` pixels in one row. -/
def hdr (kind : RecordKind) (n : Half) (k : Nat := 0) : Hdr :=
  { version := 3, headerLen := 14, width := n, height := 1, depth := 8, rle := 0, k := k, kind := kind }

/-- A `DEC` in phase `j` with the whole file `B` in `IBUF`, `RP` at `rp`, `PIX` at `pix`. -/
def decState (j : Job) (B : List Byte) (rp pix : Nat) : State :=
  { State.reset with
    status := .busy, job := j, ibuf := B.zipIdx.map fun x => (x.2, x.1), inLen := BitVec.ofNat 32 B.length,
    work := { Work.reset with rp := rp, pix := pix } }

/-- The same in the pixel stream, with the palette `pal`. -/
def streamState (h : Hdr) (pal : List Pixel) (B : List Byte) (rp pix : Nat) (prev : Pixel := Pixel.black) : State :=
  { decState (.decStream h) B rp pix with
    palSize := BitVec.ofNat 9 pal.length, pal := pal.zipIdx.map fun x => (x.2, x.1),
    work := { Work.reset with rp := rp, pix := pix, prev := prev } }

/-- An `ENC` in phase `j` of an image of one row. -/
def encState (j : Job) (version depth : Byte) (px : List Pixel) : State :=
  { State.reset with
    status := .busy, job := j, version := version, depth := depth, width := BitVec.ofNat 16 px.length, height := 1,
    pmem := px.zipIdx.map fun x => (x.2, x.1) }

/-- The pixels `PMEM[0 .. n)` after an outcome. -/
def pixelsAfter (n : Nat) : Result → Option (List Pixel)
  | .next t => t.pmem.readRange 0 n
  | _ => none

/-- `STATUS` and `ERR` after an outcome. -/
def statusAfter : Result → Option (Status × ErrKind)
  | .next t => some (t.status, t.err)
  | _ => none

/-- `(RP, PIX)` after an outcome. -/
def cursorsAfter : Result → Option (Nat × Nat)
  | .next t => some (t.work.rp, t.work.pix)
  | _ => none

/-- The palette of the examples: `(5,5,5)`, `(0,0,0)`, `(9,9,9)` (R108). -/
def pal3 : List Pixel := [⟨5, 5, 5⟩, ⟨0, 0, 0⟩, ⟨9, 9, 9⟩]

/-! ### One step of each instruction -/

/-- R213, R217: `DEC` of a version 1 file of 2 by 2 pixels enters its stream at byte 12. -/
theorem test_hdr12 : (match exec (.hdr12 1 2 2) (decState .decHeader (List.replicate 24 0) 0 0) with
    | .next t => some (t.work.rp, t.palSize.toNat, decide (t.job ≠ .decHeader))
    | _ => none) = some (12, 0, true) := by decide +kernel
/-- R214: depth 4 with the flag 1 is refused. -/
theorem test_hdr3_combination : statusAfter (exec (.hdr3 14 1 1 4 1) (decState .decHeader (List.replicate 20 0) 0 0)) =
    some (.error, .formatError) := by decide +kernel
/-- R215, R216: `header_len` 20 declares two entries. -/
theorem test_hdr3 : (match exec (.hdr3 20 3 1 2 0) (decState .decHeader (List.replicate 21 0) 0 0) with
    | .next t => some (t.work.rp, t.palSize.toNat)
    | _ => none) = some (14, 2) := by decide +kernel
/-- R216: `05 05 05` at byte 14 is entry 0. -/
theorem test_pal : (match exec (.pal 5 5 5) (decState (.decPalette (hdr .idx 3 2) 0) (List.replicate 21 0) 14 0) with
    | .next t => some (t.pal.read 0, t.work.rp)
    | _ => none) = some (some ⟨5, 5, 5⟩, 17) := by decide +kernel
/-- R221. -/
theorem test_pix : pixelsAfter 1 (exec (.pix 1 2 3) (streamState (hdr .pix 2) [] [] 14 0)) = some [⟨1, 2, 3⟩] := by
  decide +kernel
/-- R166: `03 01 02 03`. -/
theorem test_run : pixelsAfter 3 (exec (.run 3 1 2 3) (streamState (hdr .run 3) [] [] 14 0)) =
    some [⟨1, 2, 3⟩, ⟨1, 2, 3⟩, ⟨1, 2, 3⟩] := by decide +kernel
theorem test_run_cursors : cursorsAfter (exec (.run 3 1 2 3) (streamState (hdr .run 9) [] [] 18 5)) = some (22, 8) := by
  decide +kernel
/-- R112: index 1 of the example palette. -/
theorem test_idx : pixelsAfter 1 (exec (.idx 1) (streamState (hdr .idx 2) pal3 [] 23 0)) = some [⟨0, 0, 0⟩] := by
  decide +kernel
theorem test_idx_bad : statusAfter (exec (.idx 3) (streamState (hdr .idx 2) pal3 [] 23 0)) =
    some (.error, .formatError) := by decide +kernel
/-- R167: `05 02`. -/
theorem test_runi : pixelsAfter 5 (exec (.runi 5 2) (streamState (hdr .runi 5) pal3 [] 23 0)) =
    some (List.replicate 5 ⟨9, 9, 9⟩) := by decide +kernel
/-- R225: `d = 1`, `S = 60` and `S = 7F`, `N = 3`. -/
theorem test_pack1 : pixelsAfter 3 (exec (.pack1 0 1 1 0 0 0 0 0) (streamState (hdr .pack1 3) pal3 [] 23 0)) =
    some [⟨5, 5, 5⟩, ⟨0, 0, 0⟩, ⟨0, 0, 0⟩] := by decide +kernel
theorem test_pack1_padding : cursorsAfter (exec (.pack1 0 1 1 1 1 1 1 1) (streamState (hdr .pack1 3) pal3 [] 23 0)) =
    some (24, 3) := by decide +kernel
theorem test_pack2 : pixelsAfter 4 (exec (.pack2 1 2 1 0) (streamState (hdr .pack2 9) pal3 [] 23 0)) =
    some [⟨0, 0, 0⟩, ⟨9, 9, 9⟩, ⟨0, 0, 0⟩, ⟨5, 5, 5⟩] := by decide +kernel
theorem test_pack4 : pixelsAfter 2 (exec (.pack4 2 0) (streamState (hdr .pack4 9) pal3 [] 23 0)) =
    some [⟨9, 9, 9⟩, ⟨5, 5, 5⟩] := by decide +kernel
/-- R140: `32` after `(10,10,10)`. -/
theorem test_small : pixelsAfter 1 (exec (.small 1 (-2) 0) (streamState (hdr .delta 2) [] [] 12 0 ⟨10, 10, 10⟩)) =
    some [⟨11, 8, 10⟩] := by decide +kernel
/-- R140: `00` after `(1,1,1)` fails. -/
theorem test_small_range : statusAfter (exec (.small (-2) (-2) (-2)) (streamState (hdr .delta 2) [] [] 12 0 ⟨1, 1, 1⟩)) =
    some (.error, .channelOutOfRange) := by decide +kernel
/-- R141. -/
theorem test_inter : pixelsAfter 1 (exec (.inter 5 10 3) (streamState (hdr .delta 2) [] [] 12 0 ⟨100, 100, 100⟩)) =
    some [⟨105, 110, 103⟩] := by decide +kernel
/-- R142 to R144. -/
theorem test_bigr : pixelsAfter 1 (exec (.bigr 10 0 0) (streamState (hdr .delta 2) [] [] 12 0)) = some [⟨10, 0, 0⟩] := by
  decide +kernel
theorem test_bigg : pixelsAfter 1 (exec (.bigg 70 100 131) (streamState (hdr .delta 2) [] [] 12 0)) =
    some [⟨70, 100, 131⟩] := by decide +kernel
theorem test_bigb : pixelsAfter 1 (exec (.bigb 140 150 125) (streamState (hdr .delta 2) [] [] 12 0)) =
    some [⟨140, 150, 125⟩] := by decide +kernel
/-- R145, R22. -/
theorem test_new : cursorsAfter (exec (.new 5 6 7) (streamState (hdr .delta 2) [] [] 12 0)) = some (16, 1) := by
  decide +kernel
/-- R146, and R148: after the last pixel it is left over. -/
theorem test_reserved : statusAfter (exec (.reservedV4 0xB0) (streamState (hdr .delta 2) [] [] 13 1)) =
    some (.error, .formatError) := by decide +kernel
theorem test_reserved_after_end : statusAfter (exec (.reservedV4 0xB0) (streamState (hdr .delta 1) [] [] 13 1)) =
    some (.error, .pixelCountMismatch) := by decide +kernel
/-- spec/95 section 3.10. -/
theorem test_nop : exec .nop State.reset = .next State.reset := by rfl
theorem test_enc : statusAfter (exec .enc { State.reset with status := .error, err := .formatError }) =
    some (.busy, .none) := by decide +kernel
theorem test_dec : statusAfter (exec .dec State.reset) = some (.busy, .none) := by decide +kernel
theorem test_clr : statusAfter (exec .clr { State.reset with status := .error, err := .formatError }) =
    some (.idle, .none) := by decide +kernel

/-! ### Steps of the encoder and calls of the function level -/

/-- P2: at pixel 255 of an equal run the record `RUN 255` is emitted and a new run opens. -/
theorem test_run_encoder : (match step { encState (.encStream .run) 2 0 (List.replicate 2 ⟨7, 8, 9⟩) with
      work := { Work.reset with runVal := ⟨7, 8, 9⟩, runCnt := 255, wp := 12, pix := 1 } } with
    | .next t => some (t.obuf.readRange 12 4, t.work.runCnt.toNat, t.work.wp)
    | _ => none) = some (some [0xFF, 7, 8, 9], 1, 16) := by decide +kernel
/-- R195: the example of `ENCODE`. -/
theorem test_encode_image : encodeImage ⟨2, 0, 0⟩ ⟨2, 1, [⟨10, 10, 10⟩, ⟨10, 10, 10⟩]⟩ =
    .ok [0x55, 0x4C, 0x42, 0x4D, 0x50, 2, 0x0C, 0, 2, 0, 1, 0, 2, 0x0A, 0x0A, 0x0A] := by decide +kernel
/-- R230: the example of `DECODE`. -/
theorem test_decode_file :
    decodeFile [0x55, 0x4C, 0x42, 0x4D, 0x50, 2, 0x0C, 0, 2, 0, 1, 0, 2, 0x0A, 0x0A, 0x0A] =
      .ok ⟨2, 1, [⟨10, 10, 10⟩, ⟨10, 10, 10⟩]⟩ := by decide +kernel
/-- P7: 255 + 1. -/
theorem test_decode_file_range :
    decodeFile [0x55, 0x4C, 0x42, 0x4D, 0x50, 4, 0x0C, 0, 2, 0, 1, 0, 0xFF, 0xFF, 0xFF, 0xFF, 0x3F] =
      .error .channelOutOfRange := by decide +kernel
/-- P5, pixels 3 to 5: the classifier's three-byte shapes. -/
theorem test_classify : classify (-60) (-50) (-40) = .bigr ∧ classify 70 40 20 = .bigg ∧
    classify (-10) 50 20 = .bigb ∧ classify 33 0 0 = .new ∧ classify 2 0 0 = .inter := by decide +kernel
/-- R101, R103 to R106. -/
theorem test_image : makePixel 256 0 0 = .error .channelOutOfRange ∧
    makeImage 2 1 [⟨1, 2, 3⟩] = .error .pixelCountMismatch ∧
    imageGet ⟨3, 2, List.replicate 6 ⟨1, 1, 1⟩⟩ 3 0 = .error .indexOutOfBounds ∧
    imageSet ⟨2, 2, List.replicate 4 ⟨1, 1, 1⟩⟩ 1 1 ⟨9, 9, 9⟩ =
      .ok ⟨2, 2, [⟨1, 1, 1⟩, ⟨1, 1, 1⟩, ⟨1, 1, 1⟩, ⟨9, 9, 9⟩]⟩ ∧
    uniquePixels ⟨3, 1, [⟨1, 1, 1⟩, ⟨2, 2, 2⟩, ⟨1, 1, 1⟩]⟩ = [⟨1, 1, 1⟩, ⟨2, 2, 2⟩] := by decide +kernel

/-! ### Words of the opcode table -/

theorem test_table_words : decodeTableWord 16 0x6A31 = some (.inter 5 10 3) ∧
    decodeTableWord 24 0x88A596 = some (.bigr 10 0 0) ∧ decodeTableWord 32 0xFF050607 = some (.new 5 6 7) ∧
    decodeTableWord 8 0x32 = some (.small 1 (-2) 0) ∧ decodeTableWord 2 3 = some .clr := by decide +kernel
theorem test_fetch_word_new : pixelsAfter 1 (step (State.reset.withFetchWord 32 0xFF050607)) = some [⟨5, 6, 7⟩] := by
  decide +kernel
theorem test_fetch_word_hdr12 :
    cursorsAfter (step (State.reset.withFetchWord 96 0x554C424D50010C0002000200)) = some (12, 0) := by decide +kernel
theorem test_fetch_word_dec : statusAfter (step (State.reset.withFetchWord 2 2)) = some (.busy, .none) := by
  decide +kernel

/-! ### Witnesses: encoding and function level -/

theorem witness_DecodeEncode : WellFormed (.inter 38 31 38) ∧ WellFormed (.inter (-40) (-32) (-40)) ∧
    WellFormed (.bigb (-160) (-160) (-128)) ∧ WellFormed (.reservedV4 0xFE) := by decide
theorem witness_EncodeDecode : Ctx.stream .delta ≠ .cmd ∧
    decode (.stream .delta) [0x7F, 0xFF, 1] = .ok (.inter 38 31 38, [1]) := by decide +kernel
theorem witness_DeltaFirstByte : (0x3F : Byte).toNat ≤ 0x3F ∧
    (0x40 ≤ (0x40 : Byte).toNat ∧ (0x7F : Byte).toNat ≤ 0x7F) ∧ (0x80 ≤ (0x80 : Byte).toNat ∧ (0x8F : Byte).toNat ≤ 0x8F) ∧
    (0x90 ≤ (0x90 : Byte).toNat ∧ (0x9F : Byte).toNat ≤ 0x9F) ∧ (0xA0 ≤ (0xA0 : Byte).toNat ∧ (0xAF : Byte).toNat ≤ 0xAF) ∧
    (0xB0 ≤ (0xB0 : Byte).toNat ∧ (0xFE : Byte).toNat ≤ 0xFE) := by decide
theorem witness_HeaderFields : ((4 : Byte) = 1 ∨ (4 : Byte) = 2 ∨ (4 : Byte) = 4) ∧
    (12 : Byte).toNat + 256 * (0 : Byte).toNat = 12 := by decide
theorem witness_BigFields : (0x8F : Byte).toNat >>> 4 = 8 ∧ (0x90 : Byte).toNat >>> 4 = 9 ∧ (0xAF : Byte).toNat >>> 4 = 10 ∧
    WellFormed (.bigr 127 158 95) ∧ (127 : Int) + 128 = (255 : Nat) ∧ ((158 : Int) - 127) + 32 = (63 : Nat) ∧
    ((95 : Int) - 127) + 32 = (0 : Nat) ∧ WellFormed (.bigg 158 127 95) ∧ WellFormed (.bigb 158 95 127) := by decide
theorem witness_PackRoundTrip : (∀ i ∈ [1, 2, 3, 0, 2], i < 2 ^ 2) ∧ 5 ≤ [0x6C, (0x80 : Byte)].length * lanesPerByte 2 ∧
    pack 2 (unpack 2 5 [0x6C, 0x80]) = [0x6C, 0x80] ∧ 5 % lanesPerByte 2 ≠ 0 ∧
    (0x80 : Byte) ∈ [0x6C, (0x80 : Byte)].getLast? := by decide +kernel
theorem witness_RunRoundTrip : pal3.length ≤ 256 ∧
    lookupAll pal3 [2, 2, 0] = .ok [⟨9, 9, 9⟩, ⟨9, 9, 9⟩, ⟨5, 5, 5⟩] := by decide +kernel
/-- The example of R108: a new maximum at position 3. -/
theorem witness_IndexSequence : ∃ px pal idx, buildPalette 4 px [] = .ok pal ∧ idx = px.map (indexIn pal) ∧
    idx = [0, 1, 0, 2] ∧ ∀ (j : Nat) (_ : j < 3), idx[j]! < idx[3]! :=
  ⟨[⟨5, 5, 5⟩, ⟨0, 0, 0⟩, ⟨5, 5, 5⟩, ⟨9, 9, 9⟩], pal3, [0, 1, 0, 2], by decide +kernel, by decide +kernel, rfl, by decide⟩
/-- Exactly `2^depth` distinct pixels (R109). -/
theorem witness_RoundTrip : ∃ (c : EncConfig) (img : Image),
    img.pixels.length = img.width.toNat * img.height.toNat ∧ legalConfig c.version c.depth ∧
    usesPalette c.version c.depth ∧ (uniquePixels img).length = 2 ^ c.depth.toNat :=
  ⟨⟨3, 1, 1⟩, ⟨3, 1, [⟨5, 5, 5⟩, ⟨0, 0, 0⟩, ⟨5, 5, 5⟩]⟩, by decide +kernel⟩
theorem witness_AnyPaletteOrder : ∃ (c : EncConfig) (kind : RecordKind) (w h : Half) (pal px : List Pixel),
    usesPalette c.version c.depth ∧ legalConfig c.version c.depth ∧
    Selects c.version c.depth c.rle kind ∧ pal.length ≤ 2 ^ c.depth.toNat ∧
    (∀ p ∈ px, p ∈ pal) ∧ px.length = w.toNat * h.toNat :=
  ⟨⟨3, 2, 0⟩, .pack2, 2, 1, pal3, [⟨9, 9, 9⟩, ⟨5, 5, 5⟩], by decide +kernel⟩
/-- One configuration for each row of the stream selection, and a forced flag (R64, R186). -/
theorem witness_FileSize : ([((1 : Byte), (0 : Byte), (0 : BitVec 1), RecordKind.pix), (2, 0, 0, .run), (3, 24, 0, .pix),
    (3, 24, 1, .run), (3, 8, 0, .idx), (3, 8, 1, .runi), (3, 1, 1, .pack1), (3, 2, 0, .pack2), (3, 4, 0, .pack4),
    (4, 0, 0, .delta)]).all (fun x =>
      (encodeWithin unbounded ⟨x.1, x.2.1, x.2.2.1⟩ 2 1 [⟨9, 9, 9⟩, ⟨5, 5, 5⟩]).toBool &&
      decide (Selects x.1 x.2.1 x.2.2.1 x.2.2.2)) = true := by decide +kernel

/-! ### Witnesses: what a step runs -/

theorem witness_StepRunsDecoded : ∃ (s : State), s.host = [] ∧ openCtx s = some (.stream .pix) ∧
    fetchRecord (.stream .pix) s = .bytes [1, 2, 3] ∧ decode (.stream .pix) [1, 2, 3] = .ok (.pix 1 2 3, []) :=
  ⟨decState (.decStream (hdr .pix 1)) [1, 2, 3] 0 0, rfl, by decide +kernel, by decide +kernel, by decide +kernel⟩
theorem witness_StepRunsDecoded_tick : ∃ s ops, s.host = .tick :: ops ∧ openCtx s = some (.stream .pix) ∧
    fetchRecord (.stream .pix) s = .bytes [1, 2, 3] :=
  ⟨{ decState (.decStream (hdr .pix 1)) [1, 2, 3] 0 0 with host := [.tick] }, [], rfl, by decide +kernel,
    by decide +kernel⟩
theorem witness_StepRunsEncoded : ∃ (s : State) (i : Instr), WellFormed i ∧ openCtx s = some (ctxOf i) ∧ s.host = [] ∧
    s.work.rp + (encode i).length = s.inLen.toNat ∧
    s.ibuf.readRange s.work.rp (encode i).length = some (encode i) :=
  ⟨decState (.decStream (hdr .delta 1)) [0, 0x6A, 0x31] 1 0, .inter 5 10 3, by decide +kernel, by decide +kernel, rfl,
    by decide +kernel, by decide +kernel⟩
theorem witness_StepRunsCommand : ∃ (s : State) (v : Word) (ops : List HostOp), s.host = .writeReg 0x00 v :: ops ∧
    v.toNat % 4 = 2 :=
  ⟨{ State.reset with host := [.writeReg 0x00 6] }, 6, [], rfl, by decide⟩

/-! ### Witnesses: records -/

theorem witness_PixResult : InStream .pix (hdr .pix 1) (streamState (hdr .pix 1) [] [] 12 0) :=
  ⟨rfl, rfl, by decide +kernel⟩
theorem witness_IdxResult : ∃ (s : State) (h : Hdr), InStream .idx h s ∧ (2 : Byte).toNat < s.palSize.toNat ∧
    s.pal.read (2 : Byte).toNat = some ⟨9, 9, 9⟩ :=
  ⟨streamState (hdr .idx 1) pal3 [] 23 0, hdr .idx 1, ⟨rfl, rfl, by decide +kernel⟩, by decide +kernel, by decide +kernel⟩
/-- A run of 255 that ends with the last pixel. -/
theorem witness_RunResult :
    ∃ (s : State) (h : Hdr), InStream .run h s ∧ (255 : Byte) ≠ 0 ∧ s.work.pix + (255 : Byte).toNat = h.pixels :=
  ⟨streamState (hdr .run 256) [] [] 16 1, hdr .run 256, ⟨rfl, rfl, by decide +kernel⟩, by decide, by decide +kernel⟩
theorem witness_RuniResult :
    ∃ (s : State) (h : Hdr), InStream .runi h s ∧ (5 : Byte) ≠ 0 ∧ (2 : Byte).toNat < s.palSize.toNat ∧
    s.pal.read (2 : Byte).toNat = some ⟨9, 9, 9⟩ ∧ s.work.pix + (5 : Byte).toNat = h.pixels :=
  ⟨streamState (hdr .runi 5) pal3 [] 23 0, hdr .runi 5, ⟨rfl, rfl, by decide +kernel⟩, by decide, by decide +kernel,
    by decide +kernel, by decide +kernel⟩
/-- A short last byte of each depth: one lane counts. -/
theorem witness_PackResult : ∀ x ∈ [(RecordKind.pack1, Instr.pack1 1 1 1 1 1 1 1 1), (.pack2, .pack2 1 3 3 3),
    (.pack4, .pack4 1 15)], ∃ s h d lanes taken ps, packOf x.2 = some (x.1, d, lanes) ∧ InStream x.1 h s ∧
      taken = lanes.take (h.pixels - s.work.pix) ∧ taken = [1] ∧
      List.Forall₂ (fun j p => j < s.palSize.toNat ∧ s.pal.read j = some p) taken ps := by
  intro x hx
  simp only [List.mem_cons, List.not_mem_nil, or_false] at hx
  rcases hx with rfl | rfl | rfl
  · exact ⟨streamState (hdr .pack1 9) pal3 [] 24 8, hdr .pack1 9, _, _, _, [⟨0, 0, 0⟩], rfl, ⟨rfl, rfl, by decide +kernel⟩,
      rfl, by decide +kernel, .cons (by decide +kernel) .nil⟩
  · exact ⟨streamState (hdr .pack2 9) pal3 [] 25 8, hdr .pack2 9, _, _, _, [⟨0, 0, 0⟩], rfl, ⟨rfl, rfl, by decide +kernel⟩,
      rfl, by decide +kernel, .cons (by decide +kernel) .nil⟩
  · exact ⟨streamState (hdr .pack4 9) pal3 [] 27 8, hdr .pack4 9, _, _, _, [⟨0, 0, 0⟩], rfl, ⟨rfl, rfl, by decide +kernel⟩,
      rfl, by decide +kernel, .cons (by decide +kernel) .nil⟩
/-- The sums reach 255 and 0. -/
theorem witness_DeltaResult :
    ∃ (s : State) (h : Hdr), InStream .delta h s ∧ deltaOf (.small 1 (-2) 0) = some (1, -2, 0) ∧
    chan (255 : Byte) = chan s.work.prev.r + 1 ∧ chan (0 : Byte) = chan s.work.prev.g + (-2) ∧
    chan (7 : Byte) = chan s.work.prev.b + 0 :=
  ⟨streamState (hdr .delta 1) [] [] 12 0 ⟨254, 2, 7⟩, hdr .delta 1, ⟨rfl, rfl, by decide +kernel⟩, by decide +kernel,
    by decide +kernel, by decide +kernel, by decide +kernel⟩
theorem witness_DeltaResult_others : ∀ i ∈ [Instr.inter 5 10 3, .bigr 10 0 0, .bigg 70 100 131, .bigb 140 150 125],
    ∃ (s : State) (h : Hdr) (d : Int × Int × Int), InStream .delta h s ∧ deltaOf i = some d ∧ isChannel (chan s.work.prev.r + d.1) ∧
      isChannel (chan s.work.prev.g + d.2.1) ∧ isChannel (chan s.work.prev.b + d.2.2) := by
  intro i hi
  simp only [List.mem_cons, List.not_mem_nil, or_false] at hi
  rcases hi with rfl | rfl | rfl | rfl <;>
    exact ⟨streamState (hdr .delta 1) [] [] 12 0, hdr .delta 1, _, ⟨rfl, rfl, by decide +kernel⟩, rfl, by decide +kernel,
      by decide +kernel, by decide +kernel⟩
theorem witness_NewResult : InStream .delta (hdr .delta 1) (streamState (hdr .delta 1) [] [] 12 0) :=
  ⟨rfl, rfl, by decide +kernel⟩
theorem witness_ReservedResult :
    ∃ (s : State) (h : Hdr), InStream .delta h s ∧ 0xB0 ≤ (0xFE : Byte).toNat ∧ (0xFE : Byte).toNat ≤ 0xFE ∧
    s.host = [] ∧ s.work.rp < s.inLen.toNat ∧ s.ibuf.read s.work.rp = some 0xFE :=
  ⟨streamState (hdr .delta 1) [] [0x2A, 0xFE] 1 0, hdr .delta 1, ⟨rfl, rfl, by decide +kernel⟩, by decide, by decide, rfl,
    by decide +kernel, by decide +kernel⟩

/-! ### Witnesses: headers, commands, errors -/

/-- The three versions, each in a file of 12 bytes with an image of no pixels. -/
theorem witness_Hdr12Result : ∀ x ∈ [((1 : Byte), RecordKind.pix), (2, .run), (4, .delta)], ∃ (s : State) (hd : Hdr),
    s.job = .decHeader ∧ ((x.1 = 1 ∧ x.2 = .pix) ∨ (x.1 = 2 ∧ x.2 = .run) ∨ (x.1 = 4 ∧ x.2 = .delta)) ∧
    12 ≤ s.inLen.toNat ∧
    hd = { version := x.1, headerLen := 12, width := 0, height := 7, depth := 0, rle := 0, k := 0, kind := x.2 } ∧
    StreamOpens hd (s.work.rp + 12) s := by
  intro x hx
  simp only [List.mem_cons, List.not_mem_nil, or_false] at hx
  rcases hx with rfl | rfl | rfl <;>
    exact ⟨decState .decHeader (List.replicate 12 0) 0 0, _, rfl, by decide, by decide +kernel, rfl, rfl,
      by simp [packDepth]⟩
/-- With a full palette at depth 1, and with none. -/
theorem witness_Hdr3Result : ∃ (s : State), s.job = .decHeader ∧ (∀ x ∈ [((20 : Half), (1 : Byte), (0 : Byte)),
      (14, 24, 0), (14, 24, 1), (17, 8, 0), (17, 8, 1), (20, 4, 0), (20, 2, 0)],
      legalHdr3 x.1.toNat x.2.1 x.2.2 ∧ x.1.toNat ≤ s.inLen.toNat) ∧
    StreamOpens { hdr .run 0 with depth := 24, rle := 1 } (s.work.rp + 14) s :=
  ⟨decState .decHeader (List.replicate 20 0) 0 0, rfl, by
    intro x hx
    simp only [List.mem_cons, List.not_mem_nil, or_false] at hx
    rcases hx with rfl | rfl | rfl | rfl | rfl | rfl | rfl <;> exact ⟨by decide +kernel, by decide +kernel⟩,
    rfl, by simp [packDepth, hdr]⟩
/-- The last of two entries before a packed stream of one byte; and one that is not the last. -/
theorem witness_PalResult :
    ∃ (s : State) (hd : Hdr), s.job = .decPalette hd 1 ∧ hd.k = 2 ∧ StreamOpens hd (s.work.rp + 3) s :=
  ⟨decState (.decPalette (hdr .pack1 8 2) 1) (List.replicate 21 0) 17 0, hdr .pack1 8 2, rfl, rfl, rfl, by
    intro d hd; cases hd; decide +kernel⟩
theorem witness_PalResult_more : ∃ (s : State) (hd : Hdr), s.job = .decPalette hd 0 ∧ ¬ hd.k ≤ 0 + 1 :=
  ⟨decState (.decPalette (hdr .pack1 8 2) 0) (List.replicate 21 0) 14 0, hdr .pack1 8 2, rfl, by decide⟩
theorem witness_NopClrResult : State.reset.status ≠ .busy ∧ (decState .decHeader [] 0 0).status = .busy := by decide
theorem witness_StartResult : State.reset.status ≠ .busy := by decide
/-- 256 on one channel, -1 on another. -/
theorem witness_ChannelRange : ∀ i ∈ [Instr.small 1 0 (-1), .inter 1 0 (-1), .bigr 1 0 (-1), .bigg 1 0 (-1), .bigb 1 0 (-1)],
    ∃ (s : State) (h : Hdr) (d : Int × Int × Int), deltaOf i = some d ∧ InStream .delta h s ∧ ¬ isChannel (chan s.work.prev.r + d.1) ∧
      ¬ isChannel (chan s.work.prev.b + d.2.2) := by
  intro i hi
  simp only [List.mem_cons, List.not_mem_nil, or_false] at hi
  rcases hi with rfl | rfl | rfl | rfl | rfl <;>
    exact ⟨streamState (hdr .delta 1) [] [] 12 0 ⟨255, 9, 0⟩, hdr .delta 1, _, rfl, ⟨rfl, rfl, by decide +kernel⟩,
      by decide +kernel, by decide +kernel⟩
/-- The first `IN_LEN` beyond an `IBUF` of 12 bytes. -/
theorem witness_HeaderErrors_overflow : ∃ (s : State), s.host = [] ∧ s.job = .decHeader ∧
    ∃ c, s.caps.ibuf = some c ∧ c < s.inLen.toNat :=
  ⟨{ decState .decHeader [] 0 0 with inLen := 13, caps := { ibuf := some 12, obuf := none, pmem := none } },
    rfl, rfl, 12, rfl, by decide +kernel⟩
theorem witness_RunErrors : InStream .run (hdr .run 1) (streamState (hdr .run 1) [] [] 12 0) ∧ (2 : Byte) ≠ 0 ∧
    (hdr .run 1).pixels < 0 + (2 : Byte).toNat :=
  ⟨⟨rfl, rfl, by decide +kernel⟩, by decide, by decide +kernel⟩
/-- Index 3 of a palette of three entries, and index 2 with a run that is one too long. -/
theorem witness_RunErrors_runi : ∃ (s : State) (h : Hdr), InStream .runi h s ∧ s.palSize.toNat ≤ (3 : Byte).toNat ∧
    (2 : Byte).toNat < s.palSize.toNat ∧ s.pal.read (2 : Byte).toNat ≠ none ∧ h.pixels < s.work.pix + (2 : Byte).toNat :=
  ⟨streamState (hdr .runi 1) pal3 [] 23 0, hdr .runi 1, ⟨rfl, rfl, by decide +kernel⟩, by decide +kernel, by decide +kernel,
    by decide +kernel, by decide +kernel⟩
theorem witness_IndexErrors : ∃ (s : State) (h : Hdr), InStream .idx h s ∧ s.palSize.toNat ≤ (3 : Byte).toNat :=
  ⟨streamState (hdr .idx 1) pal3 [] 23 0, hdr .idx 1, ⟨rfl, rfl, by decide +kernel⟩, by decide +kernel⟩
theorem witness_IndexErrors_pack : ∃ (s : State) (h : Hdr), packOf (.pack2 2 3 0 0) = some (.pack2, 2, [2, 3, 0, 0]) ∧
    InStream .pack2 h s ∧ [2, 3, 0, 0].take (h.pixels - s.work.pix) = [2] ++ 3 :: [] ∧
    (∀ j ∈ [2], j < s.palSize.toNat ∧ s.pal.read j ≠ none) ∧ s.palSize.toNat ≤ 3 :=
  ⟨streamState (hdr .pack2 2) pal3 [] 23 0, hdr .pack2 2, rfl, ⟨rfl, rfl, by decide +kernel⟩, by decide +kernel,
    by decide +kernel, by decide +kernel⟩
/-- One file for each test: cut before byte 6, "ulbmp", version 5, cut before byte 12, length 14, version 3 cut before
byte 14, its depth 3, its palette cut. -/
theorem witness_HeaderErrors : ∀ B ∈ [[0x55, 0x4C, 0x42, 0x4D, 0x50], [0x75, 0x6C, 0x62, 0x6D, 0x70, 1],
    [0x55, 0x4C, 0x42, 0x4D, 0x50, 5], [0x55, 0x4C, 0x42, 0x4D, 0x50, 1, 12, 0, 1, 0, 1],
    [0x55, 0x4C, 0x42, 0x4D, 0x50, 1, 14, 0, 1, 0, 1, 0], [0x55, 0x4C, 0x42, 0x4D, 0x50, 3, 14, 0, 1, 0, 1, 0, 24],
    [0x55, 0x4C, 0x42, 0x4D, 0x50, 3, 14, 0, 1, 0, 1, 0, 3, 0],
    [0x55, 0x4C, 0x42, 0x4D, 0x50, 3, 17, 0, 1, 0, 1, 0, 8, 0, 1, (1 : Byte)]], ∃ (s : State), s.host = [] ∧
      openCtx s = some .header ∧ s.work.rp = 0 ∧ s.ibuf.readRange 0 s.inLen.toNat = some B ∧
      (B.length < 6 ∨ B.take 5 ≠ [0x55, 0x4C, 0x42, 0x4D, 0x50] ∨
        ¬ (B.getD 5 0 = 1 ∨ B.getD 5 0 = 2 ∨ B.getD 5 0 = 3 ∨ B.getD 5 0 = 4) ∨
        (B.getD 5 0 ≠ 3 ∧ (B.length < 12 ∨ (le16 (B.getD 6 0) (B.getD 7 0)).toNat ≠ 12)) ∨
        (B.getD 5 0 = 3 ∧ (B.length < 14 ∨
          ¬ legalHdr3 (le16 (B.getD 6 0) (B.getD 7 0)).toNat (B.getD 12 0) (B.getD 13 0) ∨
          B.length < (le16 (B.getD 6 0) (B.getD 7 0)).toNat))) := by
  intro B hB
  refine ⟨decState .decHeader B 0 0, rfl, rfl, rfl, ?_⟩
  revert B
  decide +kernel
/-- No byte of a record left; and the tag of a block with its bytes cut. -/
theorem witness_FileEndsEarly : ∃ (s : State), s.host = [] ∧ openCtx s = some (.stream .delta) ∧
    s.inLen.toNat < s.work.rp + needBytes (.stream .delta) :=
  ⟨decState (.decStream (hdr .delta 1)) [0xFF, 1] 2 0, rfl, by decide +kernel, by decide +kernel⟩
theorem witness_FileEndsEarly_cut : ∃ (s : State) (pre : List Byte), s.host = [] ∧ openCtx s = some (.stream .delta) ∧
    s.ibuf.readRange s.work.rp (needBytes (.stream .delta)) = some pre ∧
    s.inLen.toNat < s.work.rp + recordLen (.stream .delta) pre :=
  ⟨decState (.decStream (hdr .delta 1)) [0xFF, 1, 2] 0 0, [0xFF], rfl, by decide +kernel, by decide +kernel,
    by decide +kernel⟩
theorem witness_StreamEnd : ∃ (s : State) (h : Hdr), s.host = [] ∧ s.job = .decStream h ∧ h.pixels = s.work.pix ∧
    s.work.rp = s.inLen.toNat :=
  ⟨decState (.decStream (hdr .idx 1)) [0] 1 1, hdr .idx 1, rfl, rfl, by decide +kernel, by decide +kernel⟩
theorem witness_StreamEnd_left : ∃ (s : State) (h : Hdr), s.host = [] ∧ s.job = .decStream h ∧ h.pixels = s.work.pix ∧
    s.work.rp ≠ s.inLen.toNat :=
  ⟨decState (.decStream (hdr .idx 1)) [0, 0] 1 1, hdr .idx 1, rfl, rfl, by decide +kernel, by decide +kernel⟩
theorem witness_EncChecks : ∃ (a b c : State), (a.host = [] ∧ a.job = .encStart ∧ ¬ legalConfig a.version a.depth) ∧
    (b.host = [] ∧ b.job = .encStart ∧ legalConfig b.version b.depth ∧ fits (pixelCount b) b.caps.pmem = false) ∧
    (c.host = [] ∧ c.job = .encStart ∧ legalConfig c.version c.depth ∧ fits (pixelCount c) c.caps.pmem = true) :=
  ⟨encState .encStart 3 16 [⟨1, 1, 1⟩],
    { encState .encStart 1 99 (List.replicate 3 ⟨1, 1, 1⟩) with caps := { ibuf := none, obuf := none, pmem := some 2 } },
    { encState .encStart 3 8 (List.replicate 2 ⟨1, 1, 1⟩) with caps := { ibuf := none, obuf := none, pmem := some 2 } },
    by decide +kernel, by decide +kernel, by decide +kernel⟩

/-! ### Witnesses: encoder steps -/

/-- A palette scan of depth 1 at its third pixel, which is known, new, or one too many. -/
def scanState (entries : List Pixel) : State :=
  { encState (.encPalette .pack1 0) 3 1 [⟨9, 9, 9⟩] with
    palSize := BitVec.ofNat 9 entries.length, pal := entries.zipIdx.map fun x => (x.2, x.1) }
theorem witness_PaletteScanStep : ∀ entries ∈ [[⟨9, 9, 9⟩], [], [⟨1, 1, 1⟩, (⟨2, 2, 2⟩ : Pixel)]],
    (scanState entries).host = [] ∧ (scanState entries).job = .encPalette .pack1 0 ∧
    0 < pixelCount (scanState entries) ∧ (scanState entries).pmem.read 0 = some ⟨9, 9, 9⟩ ∧
    (∀ j < (scanState entries).palSize.toNat, (scanState entries).pal.read j ≠ none) ∧
    ((∃ j < (scanState entries).palSize.toNat, (scanState entries).pal.read j = some ⟨9, 9, 9⟩) ∨
      (∀ j < (scanState entries).palSize.toNat, (scanState entries).pal.read j ≠ some ⟨9, 9, 9⟩)) := by
  decide +kernel
theorem witness_RunEncoderStep : ∃ (s : State), s.host = [] ∧ s.job = .encStream .run ∧ s.work.pix < pixelCount s ∧
    s.pmem.read s.work.pix = some ⟨7, 8, 9⟩ :=
  ⟨encState (.encStream .run) 2 0 [⟨7, 8, 9⟩], rfl, rfl, by decide +kernel, by decide +kernel⟩
/-- A palette whose last entry is the pixel, with the run of that index one below its limit. -/
theorem witness_RunEncoderStep_runi : ∃ (s : State) (j : Nat), s.host = [] ∧ s.job = .encStream .runi ∧
    s.work.pix < pixelCount s ∧ s.pmem.read s.work.pix = some ⟨9, 9, 9⟩ ∧ ScanReaches j ⟨9, 9, 9⟩ s ∧
    s.pal.read j = some ⟨9, 9, 9⟩ ∧ s.work.runVal = ⟨0, 0, BitVec.ofNat 8 j⟩ ∧ s.work.runCnt = 254 :=
  ⟨{ encState (.encStream .runi) 3 8 [⟨9, 9, 9⟩] with
      palSize := 3, pal := [(0, ⟨5, 5, 5⟩), (1, ⟨0, 0, 0⟩), (2, ⟨9, 9, 9⟩)],
      work := { Work.reset with runVal := ⟨0, 0, 2⟩, runCnt := 254 } }, 2, by decide +kernel⟩
/-- `SMALL` at both of its bounds, and one beyond (R130, R134); a step of the version 4 encoder. -/
theorem witness_BlockChoice : blockFor ⟨9, 9, 9⟩ ⟨7, 10, 9⟩ = .small (-2) 1 0 ∧
    blockFor ⟨9, 9, 9⟩ ⟨11, 9, 9⟩ = .inter 2 0 0 ∧
    ∃ (s : State), s.host = [] ∧ s.job = .encStream .delta ∧ s.work.pix < pixelCount s ∧
      s.pmem.read s.work.pix = some ⟨7, 8, 9⟩ :=
  ⟨by decide +kernel, by decide +kernel, encState (.encStream .delta) 4 0 [⟨7, 8, 9⟩], by decide +kernel⟩
/-- The last lane of a byte at depth 2, and the first. -/
theorem witness_PackEncoderStep : ∃ s : State, 3 < 2 ^ 2 ∧ s.work.accN.toNat + 1 = 8 / 2 ∧
    s.work.acc.toNat % 2 ^ (8 - 2 * s.work.accN.toNat) = 0 :=
  ⟨{ State.reset with work := { Work.reset with acc := 0xFC, accN := 3 } }, by decide, by decide, by decide⟩
theorem witness_ContextOfRecords :
    ∃ (s : State) (h : Hdr), ctxOf (.pix 1 2 3) = .stream .pix ∧ s.job = .decStream h ∧ h.kind = .pix ∧
    h.pixels ≤ s.work.pix :=
  ⟨streamState (hdr .pix 1) [] [] 15 1, hdr .pix 1, rfl, rfl, rfl, by decide +kernel⟩
theorem witness_ContextOfRecords_closed : ctxOf (.pix 1 2 3) ≠ .cmd ∧ State.reset.job = .none := by decide
theorem witness_UnwrittenCells : ∃ (s : State), s.host = [] ∧ openCtx s = some (.stream .pix) ∧
    s.work.rp + needBytes (.stream .pix) ≤ s.inLen.toNat ∧ s.ibuf.readRange s.work.rp (needBytes (.stream .pix)) = none :=
  ⟨{ decState (.decStream (hdr .pix 1)) [1, 2] 0 0 with inLen := 3 }, rfl, by decide +kernel, by decide +kernel,
    by decide +kernel⟩
theorem witness_UnwrittenCells_others :
    ∃ (s u : State) (h : Hdr), (s.host = [] ∧ s.job = .encStream .pix ∧ s.work.pix < pixelCount s ∧
    s.pmem.read s.work.pix = none) ∧ u.host = [] ∧ InStream .idx h u ∧ (1 : Byte).toNat < u.palSize.toNat ∧
    u.pal.read (1 : Byte).toNat = none :=
  ⟨{ encState (.encStream .pix) 1 0 [] with width := 1 }, { streamState (hdr .idx 1) [] [] 0 0 with palSize := 2 },
    hdr .idx 1, by decide +kernel, rfl, ⟨rfl, rfl, by decide +kernel⟩, by decide +kernel, by decide +kernel⟩
/-- A `NEW` block whose first byte alone is written. -/
theorem witness_UnwrittenCells_beyond : ∃ (s : State), s.host = [] ∧ openCtx s = some (.stream .delta) ∧
    s.ibuf.readRange s.work.rp (needBytes (.stream .delta)) = some [0xFF] ∧
    s.work.rp + recordLen (.stream .delta) [0xFF] ≤ s.inLen.toNat ∧
    s.ibuf.readRange s.work.rp (recordLen (.stream .delta) [0xFF]) = none :=
  ⟨{ decState (.decStream (hdr .delta 1)) [0xFF] 0 0 with inLen := 4 }, rfl, by decide +kernel, by decide +kernel,
    by decide +kernel, by decide +kernel⟩
/-- A palette of two entries of which entry 1 is missing, in each phase of `ENC` that reads it; and a missing pixel in the
scan. -/
theorem witness_UnwrittenCells_enc : ∀ j ∈ [Job.encPalette .idx 0, .encPalOut .idx 1, .encStream .pack4],
    ∃ (s : State), s.host = [] ∧ s.job = j ∧ usesPalette s.version s.depth ∧ 0 < pixelCount s ∧
      s.pmem.read 0 = some ⟨9, 9, 9⟩ ∧ s.work.pix = 0 ∧ ScanReaches 1 ⟨9, 9, 9⟩ s ∧ s.pal.read 1 = none ∧
      1 < pixelCount s ∧ s.pmem.read 1 = none := by
  intro j hj
  refine ⟨{ encState j 3 8 [⟨9, 9, 9⟩] with width := 2, palSize := 2, pal := [(0, ⟨5, 5, 5⟩)] }, rfl, rfl, ?_⟩
  revert j
  decide +kernel
/-- A run and a packed byte whose index names a missing entry, in the packed byte after one that is present. -/
theorem witness_UnwrittenCells_lookup : ∃ (s u : State) (h g : Hdr), s.host = [] ∧ InStream .runi h s ∧
    (1 : Byte).toNat < s.palSize.toNat ∧ s.pal.read (1 : Byte).toNat = none ∧ u.host = [] ∧ InStream .pack2 g u ∧
    [0, 1, 2, 3].take (g.pixels - u.work.pix) = [0] ++ 1 :: [] ∧ 0 < u.palSize.toNat ∧ u.pal.read 0 ≠ none ∧
    1 < u.palSize.toNat ∧ u.pal.read 1 = none :=
  ⟨{ streamState (hdr .runi 1) [] [] 0 0 with palSize := 2 },
    { streamState (hdr .pack2 2) [⟨5, 5, 5⟩] [] 0 0 with palSize := 2 }, hdr .runi 1, hdr .pack2 2, rfl,
    ⟨rfl, rfl, by decide +kernel⟩, by decide +kernel, by decide +kernel, rfl, ⟨rfl, rfl, by decide +kernel⟩,
    by decide +kernel, by decide +kernel, by decide +kernel, by decide +kernel, by decide +kernel⟩
theorem witness_RaiseFrame : decoding (decState .decHeader [] 0 0).job = true ∧
    encoding (encState .encStart 1 0 []).job = true := by decide

/-! ### Witnesses: host port -/

theorem witness_RegisterAccess : State.reset.status ≠ .busy ∧ (0x300 : Word) = 0x300 ∧
    ({ State.reset with host := [.readReg 0x2C] } : State).host = .readReg 0x2C :: [] ∧
    ({ State.reset with host := [.writeReg 0x14 3] } : State).host = .writeReg 0x14 3 :: [] := by decide
theorem witness_ResetValues : State.reset.job = .none ∧ ({ State.reset with host := [.tick] } : State).job = .none := by
  decide
/-- The last cell of each byte memory, and the last entry of `PAL`. -/
theorem witness_PixelPort_bytes : ∃ s : State, s.status ≠ .busy ∧ fits (11 + 1) s.caps.ibuf = true ∧
    s.ibuf.read 11 = some 7 ∧ fits (11 + 1) s.caps.obuf = true ∧ s.obuf.read 11 = some 8 ∧ 255 < 256 ∧
    s.pal.read 255 = some ⟨1, 2, 3⟩ ∧ s.host = [.readIbuf 11, .writeIbuf 11 7, .readObuf 11, .readPal 255] :=
  ⟨{ State.reset with
      caps := { ibuf := some 12, obuf := some 12, pmem := none }, ibuf := [(11, 7)], obuf := [(11, 8)],
      pal := [(255, ⟨1, 2, 3⟩)], host := [.readIbuf 11, .writeIbuf 11 7, .readObuf 11, .readPal 255] },
    by decide +kernel⟩
/-- The last pixel of a 3 by 2 image with a memory of six pixels; and the first column beyond it (R104). -/
theorem witness_PixelPort : ∃ s : State, s.status ≠ .busy ∧ 2 < s.width.toNat ∧ 1 < s.height.toNat ∧
    fits (2 + 1 * s.width.toNat + 1) s.caps.pmem = true ∧ s.host = .pixelRead 2 1 :: [] ∧
    s.pmem.read (2 + 1 * s.width.toNat) = some ⟨1, 2, 3⟩ ∧ ¬ (3 < s.width.toNat ∧ 0 < s.height.toNat) :=
  ⟨{ State.reset with
      width := 3, height := 2, caps := { ibuf := none, obuf := none, pmem := some 6 }, pmem := [(5, ⟨1, 2, 3⟩)],
      host := [.pixelRead 2 1] }, by decide +kernel⟩
theorem witness_BusyAccess : ∀ op ∈ [HostOp.readReg 0x20, .writeReg 0x04 1, .readIbuf 0, .writeIbuf 0 1, .readObuf 0,
    .readPal 0, .pixelRead 0 0, .pixelWrite 0 0 ⟨1, 1, 1⟩], ∃ (s : State), s.status = .busy ∧ s.host = op :: [] :=
  fun op _ => ⟨{ decState .decHeader [] 0 0 with host := [op] }, rfl, rfl⟩
theorem witness_BusyAccess_status : ∃ (s : State), s.status = .busy ∧ s.host = .readReg 0x04 :: [] :=
  ⟨{ decState .decHeader [] 0 0 with host := [.readReg 0x04] }, rfl, rfl⟩
theorem witness_RstResult : ∃ (s : State), s.status = .busy ∧ s.host = .rst :: [] :=
  ⟨{ decState .decHeader [] 0 0 with host := [.rst] }, rfl, rfl⟩

/-! ### Witnesses: invariants and whole commands -/

/-- A version 4 file of one pixel, `SMALL 0, 0, 0` (R133). -/
def smallFile : List Byte := [0x55, 0x4C, 0x42, 0x4D, 0x50, 4, 0x0C, 0, 1, 0, 1, 0, 0x2A]

/-- A `DEC` of that file just started. -/
def started : State := decState .decHeader smallFile 0 0

theorem started_legal : EngineInv started where
  control := ⟨by decide +kernel, by decide +kernel, by decide +kernel⟩
  memories := ⟨by decide +kernel, by decide +kernel, by decide +kernel, by decide +kernel⟩
  ibufInside := fun _ _ => rfl
  obufInside := fun _ _ => rfl
  pmemInside := fun _ _ => rfl
  palInside := fun a ha => absurd ha (by simp [started, decState, State.reset])
  palSize := by decide +kernel
  accN := by decide +kernel
  ibufSize := fun c hc => absurd hc (by simp [started, decState, State.reset])
  job := ⟨rfl, rfl, rfl⟩
theorem started_ready : Ready started := by
  intro _ a ha
  have h13 : a < 13 := ha
  interval_cases a <;> decide +kernel
theorem witness_StepKeepsLegal : EngineInv started ∧ ∃ (t : State), step started = .next t := ⟨started_legal, _, rfl⟩
theorem witness_StepKeepsControl : ControlInv started ∧ ∃ (t : State), step started = .next t := ⟨started_legal.control, _, rfl⟩
theorem witness_StepKeepsMemories : CanonicalMemories started ∧ ∃ (t : State), step started = .next t :=
  ⟨started_legal.memories, _, rfl⟩
theorem witness_StatusTransitions : ControlInv started ∧ started.host.head? ≠ some .rst ∧ ∃ (t : State), step started = .next t :=
  ⟨started_legal.control, by decide +kernel, _, rfl⟩
theorem witness_EngineFrame : (∃ (t : State), engineStep started = .next t ∧ decoding started.job = true) ∧
    ∃ (t : State), engineStep (encState .encStart 1 0 [⟨1, 2, 3⟩]) = .next t ∧
      encoding (encState .encStart 1 0 [⟨1, 2, 3⟩]).job = true := ⟨⟨_, rfl, rfl⟩, _, rfl, rfl⟩
theorem witness_CommandEnds : EngineInv started ∧ Ready started ∧ started.host = [] := ⟨started_legal, started_ready, rfl⟩
theorem witness_DecRefines :
    ∃ (s u : State), s.status ≠ .busy ∧ s.host = [] ∧ s.ibuf.readRange 0 s.inLen.toNat = some smallFile ∧
    exec .dec s = .next u :=
  ⟨{ started with status := .done, job := .none }, _, by decide +kernel, rfl, by decide +kernel, rfl⟩
theorem witness_EncRefines : ∃ (s u : State), s.status ≠ .busy ∧ s.host = [] ∧
    s.pmem.readRange 0 (pixelCount s) = some [⟨1, 2, 3⟩] ∧ exec .enc s = .next u :=
  ⟨{ encState .none 1 0 [⟨1, 2, 3⟩] with status := .idle }, _, by decide +kernel, rfl, by decide +kernel, rfl⟩

/-- A file longer than `IBUF`, of which no byte is written. -/
theorem witness_DecRefines_overflow : ∃ (s u : State), s.status ≠ .busy ∧ s.host = [] ∧
    fits s.inLen.toNat s.caps.ibuf = false ∧ exec .dec s = .next u :=
  ⟨{ State.reset with inLen := 13, caps := { ibuf := some 12, obuf := none, pmem := none } }, _, by decide +kernel, rfl,
    by decide +kernel, rfl⟩
/-- An idle machine with a version 1 file of no pixels, and configuration registers that hold `v`. -/
def emptyFile (v : Byte) : State :=
  { decState .none [0x55, 0x4C, 0x42, 0x4D, 0x50, 1, 0x0C, 0, 0, 0, 0, 0] 0 0 with status := .idle, version := v }
/-- Two different states, one file: header and end, to `DONE`. -/
theorem witness_DecPure :
    ∃ (u₁ u₂ t₁ t₂ : State) (B : List Byte), (emptyFile 0).status ≠ .busy ∧ (emptyFile 9).status ≠ .busy ∧
    (emptyFile 0).host = [] ∧ (emptyFile 9).host = [] ∧ (emptyFile 0).caps = (emptyFile 9).caps ∧
    (emptyFile 0).inLen = (emptyFile 9).inLen ∧
    (emptyFile 0).ibuf.readRange 0 (emptyFile 0).inLen.toNat = some B ∧
    (emptyFile 9).ibuf.readRange 0 (emptyFile 9).inLen.toNat = some B ∧
    exec .dec (emptyFile 0) = .next u₁ ∧ exec .dec (emptyFile 9) = .next u₂ ∧
    runSteps 2 u₁ = .next t₁ ∧ runSteps 2 u₂ = .next t₂ ∧ t₁.status = .done ∧ t₂.status = .done :=
  ⟨_, _, _, _, _, by decide +kernel, by decide +kernel, rfl, rfl, rfl, rfl, rfl, rfl, rfl, rfl, rfl, rfl, rfl, rfl⟩
/-- An idle machine with an image of no pixels, version 1, and `DEPTH` 8 with other contents of `PAL_SIZE`. -/
def emptyImage (k : BitVec 9) : State := { encState .none 1 8 [] with status := .idle, palSize := k }
theorem witness_EncPure :
    ∃ (u₁ u₂ t₁ t₂ : State) (px : List Pixel), (emptyImage 0).status ≠ .busy ∧ (emptyImage 3).status ≠ .busy ∧
    (emptyImage 0).host = [] ∧ (emptyImage 3).host = [] ∧ (emptyImage 0).caps = (emptyImage 3).caps ∧
    (emptyImage 0).version = (emptyImage 3).version ∧ (emptyImage 0).depth = (emptyImage 3).depth ∧
    (emptyImage 0).rle = (emptyImage 3).rle ∧ (emptyImage 0).width = (emptyImage 3).width ∧
    (emptyImage 0).height = (emptyImage 3).height ∧
    (emptyImage 0).pmem.readRange 0 (pixelCount (emptyImage 0)) = some px ∧
    (emptyImage 3).pmem.readRange 0 (pixelCount (emptyImage 3)) = some px ∧
    exec .enc (emptyImage 0) = .next u₁ ∧ exec .enc (emptyImage 3) = .next u₂ ∧
    runSteps 4 u₁ = .next t₁ ∧ runSteps 4 u₂ = .next t₂ ∧ t₁.status = .done ∧ t₂.status = .done :=
  ⟨_, _, _, _, _, by decide +kernel, by decide +kernel, rfl, rfl, rfl, rfl, rfl, rfl, rfl, rfl, rfl, rfl, rfl, rfl, rfl,
    rfl, rfl, rfl⟩

end Sys2Proof.Tests
end

section
/-! What the fetch looks at decides what the decoder answers: a record step reads the file as `decode` does. -/

namespace Sys2Proof.Machine

/-! ### A decoded instruction and the bytes it was read from -/

@[simp] theorem encode_hdr12_length (v : Byte) (w h : Half) : (encode (.hdr12 v w h)).length = 12 := rfl
@[simp] theorem encode_hdr3_length (hl w h : Half) (d f : Byte) : (encode (.hdr3 hl w h d f)).length = 14 := rfl

theorem decodeDelta_rest {S rest : List Byte} {i : Instr} (h : decodeDelta S = .ok (i, rest)) :
    ∃ bs, S = bs ++ rest ∧ bs.length = (encode i).length := by
  cases S with
  | nil => cases h
  | cons b0 t =>
    simp only [decodeDelta] at h
    split_ifs at h
    · split at h <;> cases h
      exact ⟨[_, _, _, _], rfl, rfl⟩
    · cases h
      exact ⟨[_], rfl, rfl⟩
    · split at h <;> cases h
      exact ⟨[_, _], rfl, rfl⟩
    · split at h <;> cases h
      exact ⟨[_, _, _], rfl, rfl⟩
    · split at h <;> cases h
      exact ⟨[_, _, _], rfl, rfl⟩
    · split at h <;> cases h
      exact ⟨[_, _, _], rfl, rfl⟩
    · cases h
      exact ⟨[_], rfl, rfl⟩

theorem decodeHeader_rest {S rest : List Byte} {i : Instr} (h : decodeHeader S = .ok (i, rest)) :
    ∃ bs, S = bs ++ rest ∧ bs.length = (encode i).length := by
  unfold decodeHeader at h
  split at h
  · split_ifs at h
    · split at h
      · split_ifs at h
        cases h
        exact ⟨[_, _, _, _, _, _, _, _, _, _, _, _], rfl, rfl⟩
      · cases h
    · split at h <;> cases h
      exact ⟨[_, _, _, _, _, _, _, _, _, _, _, _, _, _], rfl, rfl⟩
  · cases h

theorem decodeRecord_rest {k : RecordKind} {S rest : List Byte} {i : Instr} (h : decodeRecord k S = .ok (i, rest)) :
    ∃ bs, S = bs ++ rest ∧ bs.length = (encode i).length := by
  unfold decodeRecord at h
  split at h
  case h_8 => exact decodeDelta_rest h
  case h_1 => cases h; exact ⟨[_, _, _], rfl, rfl⟩
  case h_2 => cases h; exact ⟨[_, _, _, _], rfl, rfl⟩
  case h_4 => cases h; exact ⟨[_, _], rfl, rfl⟩
  case h_9 => cases h
  all_goals
    cases h
    exact ⟨[_], rfl, rfl⟩

/-- A decoded instruction stands in front of the bytes that are left, and is as long as its encoding. -/
theorem decode_split {c : Ctx} {S rest : List Byte} {i : Instr} (h : decode c S = .ok (i, rest)) :
    ∃ bs, S = bs ++ rest ∧ bs.length = (encode i).length := by
  unfold decode at h
  split at h
  · cases h
    refine ⟨[_], rfl, ?_⟩
    unfold decodeCmd
    split_ifs <;> rfl
  · cases h
  · exact decodeHeader_rest h
  · cases h; exact ⟨[_, _, _], rfl, rfl⟩
  · cases h
  · exact decodeRecord_rest h

theorem decode_rest {c : Ctx} {S rest : List Byte} {i : Instr} (h : decode c S = .ok (i, rest)) :
    rest = S.drop (encode i).length ∧ (encode i).length ≤ S.length := by
  obtain ⟨bs, rfl, hl⟩ := decode_split h
  simp [← hl]

/-! ### How many bytes the decoder looks at -/

/-- The first `n` bytes of `S` decide what `decode` answers: it refuses them, or they are one instruction; and if `S` is
shorter than that, it ends inside the record. -/
def DecodesBy (c : Ctx) (n : Nat) (S : List Byte) : Prop :=
  if S.length < n then decode c S = .error .short
  else
    (∃ e, e ≠ .short ∧ decode c S = .error e ∧ decode c (S.take n) = .error e) ∨
    ∃ i, decode c S = .ok (i, S.drop n) ∧ decode c (S.take n) = .ok (i, [])

@[simp] theorem decode_header (S : List Byte) : decode .header S = decodeHeader S := by cases S <;> rfl

@[simp] theorem decode_stream (k : RecordKind) (S : List Byte) : decode (.stream k) S = decodeRecord k S := by
  cases S <;> rfl

@[simp] theorem decodeRecord_delta (S : List Byte) : decodeRecord .delta S = decodeDelta S := by cases S <;> rfl

theorem decodesBy_needBytes {c : Ctx} (S : List Byte) (hc : c ≠ .header) (hd : c ≠ .stream .delta) :
    DecodesBy c (needBytes c) S := by
  rcases c with _ | _ | _ | k
  case header => exact absurd rfl hc
  case cmd => rcases S with _ | ⟨b0, t⟩ <;> simp [DecodesBy, needBytes, decode]
  case palette => rcases S with _ | ⟨b0, _ | ⟨b1, _ | ⟨b2, t⟩⟩⟩ <;> simp [DecodesBy, needBytes, decode]
  cases k
  case delta => exact absurd rfl hd
  all_goals
    rcases S with _ | ⟨b0, _ | ⟨b1, _ | ⟨b2, _ | ⟨b3, t⟩⟩⟩⟩ <;> simp [DecodesBy, needBytes, decodeRecord]

theorem decodesBy_deltaLen (b0 : Byte) (t : List Byte) : DecodesBy (.stream .delta) (deltaLen b0) (b0 :: t) := by
  simp only [DecodesBy, decode_stream, decodeRecord_delta, decodeDelta, deltaLen]
  by_cases hff : b0 = 0xFF#8
  · rcases t with _ | ⟨b1, _ | ⟨b2, _ | ⟨b3, t⟩⟩⟩ <;> simp [hff]
  by_cases h0 : field b0 6 2 = 0
  · simp [hff, h0]
  by_cases h1 : field b0 6 2 = 1
  · rcases t with _ | ⟨b1, t⟩ <;> simp [hff, h1]
  by_cases h8 : field b0 4 4 = 8
  · rcases t with _ | ⟨b1, _ | ⟨b2, t⟩⟩ <;> simp [hff, h0, h1, h8]
  by_cases h9 : field b0 4 4 = 9
  · rcases t with _ | ⟨b1, _ | ⟨b2, t⟩⟩ <;> simp [hff, h0, h1, h9]
  by_cases h10 : field b0 4 4 = 10
  · rcases t with _ | ⟨b1, _ | ⟨b2, t⟩⟩ <;> simp [hff, h0, h1, h10]
  · simp [hff, h0, h1, h8, h9, h10]

theorem decodesBy_headerFixedLen (m0 m1 m2 m3 m4 v : Byte) (t : List Byte) :
    DecodesBy .header (headerFixedLen [m0, m1, m2, m3, m4, v]) (m0 :: m1 :: m2 :: m3 :: m4 :: v :: t) := by
  simp only [DecodesBy, decode_header, decodeHeader, headerFixedLen]
  by_cases hm : [m0, m1, m2, m3, m4] = magic
  · by_cases hv : v = 1#8 ∨ v = 2#8 ∨ v = 4#8
    · rcases t with _ | ⟨b1, _ | ⟨b2, _ | ⟨b3, _ | ⟨b4, _ | ⟨b5, _ | ⟨b6, t⟩⟩⟩⟩⟩⟩
      case cons.cons.cons.cons.cons.cons =>
        by_cases hl : le16 b1 b2 = 12#16 <;> simp [hm, hv, hl]
      all_goals simp [hm, hv]
    · by_cases hv3 : v = 3#8
      · subst hv3
        rcases t with _ | ⟨b1, _ | ⟨b2, _ | ⟨b3, _ | ⟨b4, _ | ⟨b5, _ | ⟨b6, _ | ⟨b7, _ | ⟨b8, t⟩⟩⟩⟩⟩⟩⟩⟩ <;>
          simp [hm]
      · simp [hm, hv, hv3]
  · simp [hm]

theorem decodeHeader_short {S : List Byte} (h : S.length < 6) : decodeHeader S = .error .short := by
  rcases S with _ | ⟨m0, _ | ⟨m1, _ | ⟨m2, _ | ⟨m3, _ | ⟨m4, _ | ⟨v, t⟩⟩⟩⟩⟩⟩
  case cons.cons.cons.cons.cons.cons => simp at h; omega
  all_goals rfl

/-- What the fetch looks at decides what `decode` answers (R47, R64, R84, R210). -/
theorem decode_cases (c : Ctx) (S : List Byte) :
    if S.length < needBytes c then decode c S = .error .short
    else DecodesBy c (recordLen c (S.take (needBytes c))) S := by
  rcases eq_or_ne c .header with rfl | hc
  · split_ifs with h
    · simpa using decodeHeader_short h
    · simp only [needBytes, not_lt] at h
      rcases S with _ | ⟨m0, _ | ⟨m1, _ | ⟨m2, _ | ⟨m3, _ | ⟨m4, _ | ⟨v, t⟩⟩⟩⟩⟩⟩
      case cons.cons.cons.cons.cons.cons => exact decodesBy_headerFixedLen m0 m1 m2 m3 m4 v t
      all_goals simp at h
  rcases eq_or_ne c (.stream .delta) with rfl | hd
  · rcases S with _ | ⟨b0, t⟩
    · rfl
    · exact decodesBy_deltaLen b0 t
  · have hl : ∀ pre, recordLen c pre = needBytes c := by
      intro pre
      rcases c with _ | _ | _ | k
      case header => exact absurd rfl hc
      case stream =>
        cases k
        case delta => exact absurd rfl hd
        all_goals rfl
      all_goals rfl
    rw [hl]
    have := decodesBy_needBytes S hc hd
    split_ifs with h
    · simpa [DecodesBy, h] using this
    · exact this

/-! ### Fetch, decode and execute -/

/-- A fetch from a written file brings the bytes that `recordLen` asks for, unless the file ends first. -/
theorem fetchRecord_of_file {c : Ctx} {s : State} {B : List Byte} (hB : s.ibuf.readRange 0 s.inLen.toNat = some B) :
    fetchRecord c s =
      if (B.drop s.work.rp).length < needBytes c then .short
      else if (B.drop s.work.rp).length < recordLen c ((B.drop s.work.rp).take (needBytes c)) then .short
      else .bytes ((B.drop s.work.rp).take (recordLen c ((B.drop s.work.rp).take (needBytes c)))) := by
  have hlen := Memory.readRange_length hB
  have hneed : 0 < needBytes c := by
    rcases c with _ | _ | _ | k
    case stream => cases k <;> decide
    all_goals decide
  have hread : ∀ n, s.work.rp + n ≤ s.inLen.toNat →
      s.ibuf.readRange s.work.rp n = some ((B.drop s.work.rp).take n) := fun n hn => by
    simpa using Memory.readRange_sub hB hn
  simp only [List.length_drop, hlen, fetchRecord]
  by_cases h1 : s.inLen.toNat < s.work.rp + needBytes c
  · rw [if_pos h1, if_pos (by omega)]
  rw [if_neg h1, if_neg (by omega), hread _ (by omega)]
  dsimp only
  generalize recordLen c (List.take (needBytes c) (List.drop s.work.rp B)) = len
  by_cases h2 : s.inLen.toNat < s.work.rp + len
  · rw [if_pos h2, if_pos (by omega)]
  · rw [if_neg h2, if_neg (by omega), hread _ (by omega)]

/-- What a record step makes of the decoder's answer: a file that ends inside the record has the context's error, other
refused bytes are a `FormatError`, and an instruction is executed (R47, R210 to R213). -/
def recordOutcome (c : Ctx) (s : State) : Except Reject (Instr × List Byte) → Result
  | .error .short => .next (raise (shortError c) s)
  | .error _ => .next (raise .formatError s)
  | .ok (i, _) => exec i s

theorem recordOutcome_refused {c : Ctx} {s : State} {e : Reject} (he : e ≠ .short) :
    recordOutcome c s (.error e) = .next (raise .formatError s) := by
  cases e
  case short => exact absurd rfl he
  all_goals rfl

/-- With the file written, a record step does what `decode` says of the rest of the file: the fetch stops neither too
early nor too late. -/
theorem runRecordAt_of_file {c : Ctx} {s : State} {B : List Byte} (hB : s.ibuf.readRange 0 s.inLen.toNat = some B) :
    runRecordAt c s = recordOutcome c s (decode c (B.drop s.work.rp)) := by
  have hcases := decode_cases c (B.drop s.work.rp)
  unfold runRecordAt
  rw [fetchRecord_of_file hB]
  by_cases h1 : (B.drop s.work.rp).length < needBytes c
  · rw [if_pos h1] at hcases ⊢
    rw [hcases]; rfl
  rw [if_neg h1] at hcases ⊢
  unfold DecodesBy at hcases
  split_ifs at hcases ⊢
  · rw [hcases]; rfl
  · obtain ⟨e, he, hfull, hcut⟩ | ⟨i, hfull, hcut⟩ := hcases
    · rw [hfull, recordOutcome_refused he]
      simp only [hcut]
    · rw [hfull]
      simp only [hcut]
      rfl

end Sys2Proof.Machine
end

section
/-! The part of the invariant that is about the stores alone, and what each named update does to it. -/

namespace Sys2Proof.Machine

/-! ### Memories within a capacity -/

section
variable {α : Type}

/-- A memory in canonical form all of whose cells exist (log 8, R57). -/
structure Memory.Ok (m : Memory α) (cap : Option Nat) : Prop where
  wf : m.wf
  inside : m.inside cap

theorem Memory.Ok.nil (cap : Option Nat) : Memory.Ok ([] : Memory α) cap :=
  ⟨Memory.wf_nil, fun _ ha => absurd ha (by simp)⟩

theorem Memory.Ok.write {m : Memory α} {cap : Option Nat} (h : m.Ok cap) {a : Nat} (ha : fits (a + 1) cap = true) (v : α) :
    (m.write a v).Ok cap := by
  refine ⟨Memory.wf_write h.wf a v, fun x hx => ?_⟩
  rcases (Memory.mem_addresses_write m a v x).1 hx with rfl | hx
  · exact ha
  · exact h.inside x hx

theorem Memory.Ok.writeRange {cap : Option Nat} (vs : List α) {m : Memory α} (h : m.Ok cap) {a : Nat}
    (ha : fits (a + vs.length) cap = true) : (m.writeRange a vs).Ok cap := by
  induction vs generalizing m a with
  | nil => exact h
  | cons v vs ih =>
    simp only [List.length_cons] at ha
    exact ih (h.write (fits_le ha (by omega)) v) (fits_le ha (by omega))

theorem Memory.Ok.loosen {m : Memory α} {cap : Option Nat} (h : m.Ok cap) (n : Nat) (f : Nat → α) : (m.loosen n f).Ok cap :=
  ⟨Memory.wf_loosen h.wf n f, fun x hx => h.inside x (by rwa [Memory.loosen_addresses] at hx)⟩

end

/-! ### The part of the invariant that no phase of a command enters -/

/-- What `EngineInv` says of the memories and of the two registers with a range, as a statement about just these. -/
structure StoresOk (ibuf obuf : Memory Byte) (pmem pal : Memory Pixel) (caps : Caps) (palSize : BitVec 9) (accN : BitVec 4) :
    Prop where
  ibuf : ibuf.Ok caps.ibuf
  obuf : obuf.Ok caps.obuf
  pmem : pmem.Ok caps.pmem
  pal : pal.Ok (some 256)
  palSize : palSize.toNat ≤ 256
  accN : accN.toNat ≤ 8
  ibufSize : ∀ c, caps.ibuf = some c → 12 ≤ c

/-- The stores of a state are legal. Two states that agree on them satisfy this by the same proof. -/
def StoreInv (s : State) : Prop := StoresOk s.ibuf s.obuf s.pmem s.pal s.caps s.palSize s.work.accN

theorem engineInv_iff (s : State) : EngineInv s ↔ ControlInv s ∧ StoreInv s ∧ JobInv s := by
  constructor
  · rintro ⟨hc, ⟨hi, ho, hp, hl⟩, ii, io, ip, il, hk, ha, hs, hj⟩
    exact ⟨hc, ⟨⟨hi, ii⟩, ⟨ho, io⟩, ⟨hp, ip⟩, ⟨hl, il⟩, hk, ha, hs⟩, hj⟩
  · rintro ⟨hc, ⟨hi, ho, hp, hl, hk, ha, hs⟩, hj⟩
    exact ⟨hc, ⟨hi.wf, ho.wf, hp.wf, hl.wf⟩, hi.inside, ho.inside, hp.inside, hl.inside, hk, ha, hs, hj⟩

theorem StoreInv.setPalSize {s : State} (h : StoreInv s) {k : Nat} (hk : k ≤ 256) : StoreInv (setPalSize k s) :=
  { h with palSize := by simp only [setPalSize_palSize, BitVec.toNat_ofNat]; omega }

theorem StoreInv.writePal {s : State} (h : StoreInv s) {i : Nat} (hi : i < 256) (p : Pixel) : StoreInv (writePal i p s) :=
  { h with pal := h.pal.write (by simpa using hi) p }

theorem StoreInv.writePixel {s : State} (h : StoreInv s) {i : Nat} (hi : fits (i + 1) s.caps.pmem = true) (p : Pixel) :
    StoreInv (writePixel i p s) :=
  { h with pmem := h.pmem.write hi p }

theorem StoreInv.writeByte {s : State} (h : StoreInv s) {a : Nat} (ha : fits (a + 1) s.caps.ibuf = true) (v : Byte) :
    StoreInv (writeByte a v s) :=
  { h with ibuf := h.ibuf.write ha v }

theorem StoreInv.setAcc {s : State} (h : StoreInv s) (a : Byte) {n : BitVec 4} (hn : n.toNat ≤ 8) : StoreInv (setAcc a n s) :=
  { h with accN := hn }

theorem StoreInv.emitBytes {s : State} (h : StoreInv s) {bs : List Byte}
    (hb : fits (s.work.wp + bs.length) s.caps.obuf = true) : StoreInv (emitBytes bs s) :=
  { h with obuf := h.obuf.writeRange bs hb }

theorem StoreInv.putPixels {s : State} (h : StoreInv s) {ps : List Pixel}
    (hp : fits (s.work.pix + ps.length) s.caps.pmem = true) (len : Nat) : StoreInv (putPixels ps len s) :=
  { h with pmem := h.pmem.writeRange ps hp }

theorem freePalSize_le (d : Nat) : (freePalSize d).toNat ≤ 256 := by
  have := (Config.freePalSize d).isLt
  simp only [freePalSize, BitVec.toNat_ofNat]; omega

theorem freeWork_accN_le (d : Nat) : (freeWork d).accN.toNat ≤ 8 := by
  have := (Config.freeAccN d).isLt
  simp only [freeWork, BitVec.toNat_ofNat]; omega

theorem StoreInv.retire {s : State} (h : StoreInv s) : StoreInv (retire s) :=
  { h with accN := freeWork_accN_le s.draw }

theorem StoreInv.loseEnc {s : State} (h : StoreInv s) : StoreInv (loseEnc s) :=
  { h with
    obuf := by rw [loseEnc_obuf]; exact h.obuf.loosen _ _
    pal := by rw [loseEnc_pal]; exact h.pal.loosen _ _
    palSize := freePalSize_le s.draw }

theorem StoreInv.loseDec {s : State} (h : StoreInv s) : StoreInv (loseDec s) :=
  { h with
    pmem := by rw [loseDec_pmem]; exact h.pmem.loosen _ _
    pal := by rw [loseDec_pal]; exact h.pal.loosen _ _
    palSize := freePalSize_le s.draw }

theorem StoreInv.loseOutputs {s : State} (h : StoreInv s) : StoreInv (loseOutputs s) := by
  unfold Machine.loseOutputs
  split
  case h_1 => exact h
  case h_2 | h_3 | h_4 => exact h.loseDec
  all_goals exact h.loseEnc

theorem StoreInv.raise {s : State} (h : StoreInv s) (e : ErrKind) : StoreInv (raise e s) := h.loseOutputs.retire

theorem StoreInv.finishDec {s : State} (h : StoreInv s) {hd : Hdr} (hk : hd.k ≤ 256) : StoreInv (finishDec hd s) :=
  { h with
    pmem := by rw [finishDec_pmem]; exact h.pmem.loosen _ _
    pal := by rw [finishDec_pal]; exact h.pal.loosen _ _
    palSize := by simp only [finishDec_palSize, BitVec.toNat_ofNat]; omega
    accN := freeWork_accN_le s.draw }

theorem StoreInv.finishEnc {s : State} (h : StoreInv s) (hl : Nat) {k : Nat} (hk : k ≤ 256) : StoreInv (finishEnc hl k s) :=
  { h with
    obuf := by rw [finishEnc_obuf]; exact h.obuf.loosen _ _
    pal := by rw [finishEnc_pal]; exact h.pal.loosen _ _
    palSize := by simp only [finishEnc_palSize, BitVec.toNat_ofNat]; omega
    accN := freeWork_accN_le s.draw }

theorem StoreInv.resetEngine {s : State} (h : StoreInv s) : StoreInv (resetEngine s) where
  ibuf := .nil _
  obuf := .nil _
  pmem := .nil _
  pal := .nil _
  palSize := by simp [State.reset]
  accN := by simp [State.reset, Work.reset]
  ibufSize := h.ibufSize

/-! ### Status, error code and command -/

/-- An error kind that `ERR.code` can hold in `ERROR` (R14, R250, R253). -/
def IsCode (e : ErrKind) : Prop := e ≠ .none ∧ e ≠ .indexOutOfBounds

/-- A command is running and has met no error. -/
structure Running (s : State) : Prop where
  status : s.status = .busy
  err : s.err = .none

theorem EngineInv.store {s : State} (h : EngineInv s) : StoreInv s := ((engineInv_iff s).1 h).2.1

theorem EngineInv.running {s : State} (h : EngineInv s) (hj : s.job ≠ .none) : Running s := by
  have hb := h.control.busy_iff.2 hj
  exact ⟨hb, h.control.err_iff.2 (by simp [hb])⟩

theorem Running.control {s : State} (h : Running s) (hj : s.job ≠ .none) : ControlInv s where
  busy_iff := by simp [h.status, hj]
  err_iff := by simp [h.status, h.err]
  err_kind := by simp [h.err]

/-- A running command in a phase whose own condition holds is in a legal state. -/
theorem Running.engineInv {s : State} (h : Running s) (hs : StoreInv s) (hj : s.job ≠ .none) (hi : JobInv s) : EngineInv s :=
  (engineInv_iff s).2 ⟨h.control hj, hs, hi⟩

/-- With no command in progress, the invariant is about the stores and the two control registers alone. -/
theorem engineInv_of_no_job {s : State} (hs : StoreInv s) (hj : s.job = .none) (hb : s.status ≠ .busy)
    (he : s.err = .none ↔ s.status ≠ .error) (hk : s.err ≠ .indexOutOfBounds) : EngineInv s :=
  (engineInv_iff s).2 ⟨⟨by simp [hb, hj], he, hk⟩, hs, by simp [JobInv, hj]⟩

theorem StoreInv.engineInv_raise {s : State} (h : StoreInv s) {e : ErrKind} (he : IsCode e) : EngineInv (Machine.raise e s) :=
  engineInv_of_no_job (h.raise e) rfl (by simp) (by simp [he.1]) he.2

/-- A result that, where it completes, does so in a legal state, and raises only codes of `ERR`. -/
structure Keeps (r : Except Stop State) : Prop where
  ok : ∀ t, r = .ok t → EngineInv t
  err : ∀ e, r = .error (.err e) → IsCode e

theorem Keeps.of_ok {t : State} (h : EngineInv t) : Keeps (.ok t) where
  ok := by rintro _ ⟨⟩; exact h
  err := by rintro _ ⟨⟩

theorem Keeps.of_err {e : ErrKind} (h : IsCode e) : Keeps (.error (.err e)) where
  ok := by rintro _ ⟨⟩
  err := by rintro _ ⟨⟩; exact h

theorem Keeps.of_fault (f : Fault) : Keeps (.error (.fault f)) where
  ok := by rintro _ ⟨⟩
  err := by rintro _ ⟨⟩

/-- An engine step whose result is legal keeps the invariant: an error is raised from the state before it. -/
theorem Keeps.settle {s t : State} {r : Except Stop State} (hr : Keeps r) (hs : StoreInv s) (h : settle s r = .next t) :
    EngineInv t := by
  rcases settle_next h with rfl | ⟨e, rfl, rfl⟩
  · exact hr.ok t rfl
  · exact hs.engineInv_raise (hr.err e rfl)

end Sys2Proof.Machine
end

section
/-! What a record of a pixel stream stands for, as a function, and that `exec` does just that. -/

namespace Sys2Proof.Machine

/-! ### The palette as a list -/

/-- `PAL` up to `PAL_SIZE` is the list `pal`. -/
structure PaletteIs (pal : List Pixel) (s : State) : Prop where
  size : s.palSize.toNat = pal.length
  entries : s.pal.readRange 0 pal.length = some pal

theorem PaletteIs.read {pal : List Pixel} {s : State} (h : PaletteIs pal s) {i : Nat} (hi : i < pal.length) :
    s.pal.read i = pal[i]? := by
  simpa using Memory.readRange_getElem h.entries hi

theorem paletteLookup_eq {pal : List Pixel} {s : State} (h : PaletteIs pal s) (i : Nat) :
    paletteLookup i s = (lookupIn pal i).mapError .err := by
  unfold paletteLookup lookupIn
  by_cases hi : pal.length ≤ i
  · rw [if_pos (by rw [h.size]; exact hi), List.getElem?_eq_none hi]; rfl
  · rw [if_neg (by rw [h.size]; exact hi), h.read (by omega), List.getElem?_eq_getElem (by omega)]; rfl

theorem paletteLookups_eq {pal : List Pixel} {s : State} (h : PaletteIs pal s) (is : List Nat) :
    paletteLookups is s = (lookupAll pal is).mapError .err := by
  induction is with
  | nil => rfl
  | cons i is ih =>
    simp only [paletteLookups, lookupAll, paletteLookup_eq h, ih]
    cases lookupIn pal i with
    | error e => rfl
    | ok p => cases lookupAll pal is <;> rfl

theorem lookupIn_error {pal : List Pixel} {i : Nat} {e : ErrKind} (h : lookupIn pal i = .error e) : e = .formatError := by
  unfold lookupIn at h
  split at h <;> cases h
  rfl

theorem lookupAll_error {pal : List Pixel} {is : List Nat} {e : ErrKind} (h : lookupAll pal is = .error e) :
    e = .formatError := by
  induction is with
  | nil => cases h
  | cons i is ih =>
    simp only [lookupAll] at h
    split at h
    · cases h; exact lookupIn_error ‹_›
    · split at h
      · cases h; exact ih ‹_›
      · cases h

theorem lookupAll_length {pal : List Pixel} {is : List Nat} {ps : List Pixel} (h : lookupAll pal is = .ok ps) :
    ps.length = is.length := by
  induction is generalizing ps with
  | nil => cases h; rfl
  | cons i is ih =>
    simp only [lookupAll] at h
    split at h
    · cases h
    · split at h <;> cases h
      simp [ih ‹_›]

/-! ### What a record stands for -/

/-- The pixels of a run record with `n` pixels still needed (R165). -/
def runPixels (n : Nat) (c : Byte) (value : Except ErrKind Pixel) : Except ErrKind (List Pixel) :=
  if c = 0 then .error .formatError
  else
    match value with
    | .error e => .error e
    | .ok p => if n < c.toNat then .error .pixelCountMismatch else .ok (List.replicate c.toNat p)

/-- A record of one pixel. -/
def onePixel (value : Except ErrKind Pixel) : Except ErrKind (List Pixel) := value.map fun p => [p]

/-- The pixels that one record of a stream stands for after `prev`, with `n` of them still needed; or its error. The
function-level counterpart of `exec` on records (R9, R221 to R226). -/
def recordPixels (pal : List Pixel) (prev : Pixel) (n : Nat) : Instr → Except ErrKind (List Pixel)
  | .pix r g b => .ok [⟨r, g, b⟩]
  | .run c r g b => runPixels n c (.ok ⟨r, g, b⟩)
  | .idx i => onePixel (lookupIn pal i.toNat)
  | .runi c i => runPixels n c (lookupIn pal i.toNat)
  | .pack1 a b c d e f g h =>
    lookupAll pal ([a.toNat, b.toNat, c.toNat, d.toNat, e.toNat, f.toNat, g.toNat, h.toNat].take n)
  | .pack2 a b c d => lookupAll pal ([a.toNat, b.toNat, c.toNat, d.toNat].take n)
  | .pack4 a b => lookupAll pal ([a.toNat, b.toNat].take n)
  | i => onePixel (blockPixel prev i)

theorem onePixel_ok {value : Except ErrKind Pixel} {ps : List Pixel} (h : onePixel value = .ok ps) :
    ∃ p, value = .ok p ∧ ps = [p] := by
  cases value <;> cases h
  exact ⟨_, rfl, rfl⟩

theorem onePixel_error {value : Except ErrKind Pixel} {e : ErrKind} (h : onePixel value = .error e) : value = .error e := by
  cases value <;> cases h
  rfl

theorem toNat_eq_zero {n : Nat} {b : BitVec n} : b.toNat = 0 ↔ b = 0 :=
  ⟨fun h => BitVec.eq_of_toNat_eq (by simpa using h), fun h => by rw [h]; simp⟩

theorem runPixels_ok {n : Nat} {c : Byte} {value : Except ErrKind Pixel} {ps : List Pixel}
    (h : runPixels n c value = .ok ps) : 0 < ps.length ∧ ps.length ≤ n := by
  unfold runPixels at h
  by_cases hc : c = 0
  · rw [if_pos hc] at h; cases h
  rw [if_neg hc] at h
  split at h
  · cases h
  · split_ifs at h with hn
    cases h
    have hpos : c.toNat ≠ 0 := toNat_eq_zero.not.2 hc
    simp only [List.length_replicate]
    omega

theorem runPixels_error {n : Nat} {c : Byte} {value : Except ErrKind Pixel} {e : ErrKind}
    (h : runPixels n c value = .error e) : e = .formatError ∨ e = .pixelCountMismatch ∨ value = .error e := by
  unfold runPixels at h
  by_cases hc : c = 0
  · rw [if_pos hc] at h; cases h; exact .inl rfl
  rw [if_neg hc] at h
  split at h
  · cases h; exact .inr (.inr rfl)
  · split_ifs at h
    cases h; exact .inr (.inl rfl)

/-- A record gives at least one pixel and no more than are needed. -/
theorem recordPixels_length {pal : List Pixel} {prev : Pixel} {n : Nat} {i : Instr} {ps : List Pixel} (hn : 0 < n)
    (h : recordPixels pal prev n i = .ok ps) : 0 < ps.length ∧ ps.length ≤ n := by
  have hone : ∀ {v}, onePixel v = .ok ps → 0 < ps.length ∧ ps.length ≤ n := by
    intro v hv
    obtain ⟨p, -, rfl⟩ := onePixel_ok hv
    exact ⟨Nat.one_pos, hn⟩
  have hpack : ∀ {l : List Nat}, 0 < l.length → lookupAll pal (l.take n) = .ok ps → 0 < ps.length ∧ ps.length ≤ n := by
    intro l hl hv
    rw [lookupAll_length hv, List.length_take]
    omega
  cases i
  case pix => cases h; exact ⟨Nat.one_pos, hn⟩
  case run n r g b => exact runPixels_ok (value := .ok ⟨r, g, b⟩) h
  case runi n x => exact runPixels_ok (value := lookupIn pal x.toNat) h
  case pack1 | pack2 | pack4 => exact hpack (by simp) h
  all_goals exact hone h

theorem reconstruct_error {prev : Pixel} {dr dg db : Int} {e : ErrKind} (h : reconstruct prev dr dg db = .error e) :
    e = .channelOutOfRange := by
  unfold reconstruct makePixel at h
  split_ifs at h
  cases h; rfl

theorem recordPixels_error {pal : List Pixel} {prev : Pixel} {n : Nat} {i : Instr} {e : ErrKind}
    (h : recordPixels pal prev n i = .error e) : IsCode e := by
  have hfmt : IsCode .formatError := by simp [IsCode]
  cases i
  case pix => cases h
  case run n r g b =>
    obtain rfl | rfl | h := runPixels_error (value := .ok ⟨r, g, b⟩) h
    · exact hfmt
    · simp [IsCode]
    · cases h
  case runi n x =>
    obtain rfl | rfl | h := runPixels_error (value := lookupIn pal x.toNat) h
    · exact hfmt
    · simp [IsCode]
    · exact lookupIn_error h ▸ hfmt
  case pack1 | pack2 | pack4 => exact lookupAll_error h ▸ hfmt
  case idx => exact lookupIn_error (onePixel_error (value := lookupIn pal _) h) ▸ hfmt
  case small | inter | bigr | bigg | bigb =>
    rw [reconstruct_error (onePixel_error (value := reconstruct prev _ _ _) h)]
    simp [IsCode]
  case new => cases h
  all_goals
    cases h
    exact hfmt

/-! ### What a record does -/

/-- The record's pixels are stored; `PREV`, `ACC` and `ACC_N` hold what the kind of record leaves there. -/
def storeRecord (ps : List Pixel) (len : Nat) (prev : Pixel) (acc : Byte) (accN : BitVec 4) (s : State) : State :=
  setPrev prev (setAcc acc accN (putPixels ps len s))

/-- A record's pixels, or its error, as an outcome of the machine: on an error nothing is stored; otherwise the pixels are,
`RP` moves past the record, and `PREV` follows a version 4 block (R148). -/
def RecordDoes (h : Hdr) (i : Instr) (s : State) (r : Except ErrKind (List Pixel)) : Prop :=
  match r with
  | .error e => exec i s = .next (raise e s)
  | .ok ps => ∃ prev acc accN, exec i s = .next (storeRecord ps (encode i).length prev acc accN s) ∧
      (h.kind = .delta → ps = [prev]) ∧ (accN = s.work.accN ∨ accN.toNat ≤ 8)

section
variable {h : Hdr} {i : Instr} {s : State}

/-- A record that leaves `PREV` and the Bit Packer alone. -/
theorem RecordDoes.of_plain {r : Except ErrKind (List Pixel)} (hk : h.kind ≠ .delta)
    (he : exec i s = settle s ((r.map fun ps => putPixels ps (encode i).length s).mapError .err)) : RecordDoes h i s r := by
  cases r with
  | error e => exact he
  | ok ps => exact ⟨s.work.prev, s.work.acc, s.work.accN, he, fun e => absurd e hk, .inl rfl⟩

/-- A packed byte of at most eight lanes. -/
theorem RecordDoes.of_pack {pal : List Pixel} {lanes : List Nat} {d : Nat} (hk : h.kind ≠ .delta) (hl : lanes.length ≤ 8)
    (hpal : PaletteIs pal s) (hlen : (encode i).length = 1) (he : exec i s = settle s (packRecord d lanes h s)) :
    RecordDoes h i s (lookupAll pal (lanes.take (h.pixels - s.work.pix))) := by
  rw [packRecord, paletteLookups_eq hpal] at he
  cases hr : lookupAll pal (lanes.take (h.pixels - s.work.pix)) with
  | error e => rw [hr] at he; exact he
  | ok ps =>
    rw [hr] at he
    rw [RecordDoes, hlen]
    refine ⟨s.work.prev, byteOf (packByte d lanes), BitVec.ofNat 4 _, he, fun e => absurd e hk, .inr ?_⟩
    simp only [BitVec.toNat_ofNat, List.length_take]
    omega

/-- A version 4 block. -/
theorem RecordDoes.of_block {cur : Except ErrKind Pixel} (he : exec i s = settle s (putBlock cur (encode i).length s)) :
    RecordDoes h i s (onePixel cur) := by
  cases cur with
  | error e => exact he
  | ok p => exact ⟨p, s.work.acc, s.work.accN, he, fun _ => rfl, .inl rfl⟩

theorem runRecord_eq (n : Byte) (value : Except ErrKind Pixel) (len : Nat) (hp : s.work.pix < h.pixels) :
    runRecord n (value.mapError .err) len h s =
      ((runPixels (h.pixels - s.work.pix) n value).map fun ps => putPixels ps len s).mapError .err := by
  unfold runRecord runPixels
  by_cases hc : n = 0
  · rw [if_pos hc, if_pos hc]; rfl
  rw [if_neg hc, if_neg hc]
  cases value with
  | error e => rfl
  | ok p =>
    dsimp only [Except.mapError]
    by_cases hn : h.pixels < s.work.pix + n.toNat
    · rw [if_pos hn, if_pos (by omega)]; rfl
    · rw [if_neg hn, if_neg (by omega)]; rfl

/-- Every record, in a stream of its kind that still needs a pixel, does what `recordPixels` says. -/
theorem exec_record {pal : List Pixel} (hj : s.job = .decStream h) (hi : ctxOf i = .stream h.kind)
    (hp : s.work.pix < h.pixels) (hpal : PaletteIs pal s) :
    RecordDoes h i s (recordPixels pal s.work.prev (h.pixels - s.work.pix) i) := by
  cases i
  case hdr12 | hdr3 | pal | nop | enc | dec | clr => cases hi
  all_goals
    have hk := (Ctx.stream.inj hi).symm
  case pix r g b =>
    exact .of_plain (by simp [hk]) (inStream_of_job hj hk hp)
  case idx x =>
    refine .of_plain (by simp [hk]) ((inStream_of_job hj hk hp).trans ?_)
    rw [paletteLookup_eq hpal, recordPixels]
    cases lookupIn pal x.toNat <;> rfl
  case run n r g b =>
    refine .of_plain (by simp [hk]) ((inStream_of_job hj hk hp).trans ?_)
    exact congrArg _ (runRecord_eq n (.ok ⟨r, g, b⟩) 4 hp)
  case runi n x =>
    refine .of_plain (by simp [hk]) ((inStream_of_job hj hk hp).trans ?_)
    rw [paletteLookup_eq hpal]
    exact congrArg _ (runRecord_eq n (lookupIn pal x.toNat) 2 hp)
  case pack1 | pack2 | pack4 =>
    exact .of_pack (by simp [hk]) (by simp) hpal rfl (inStream_of_job hj hk hp)
  case reservedV4 =>
    exact inStream_of_job hj hk hp
  all_goals exact .of_block (inStream_of_job hj hk hp)

end

end Sys2Proof.Machine
end

section
/-! One pixel of the encoder and the end of its stream, as the bytes they bring out and the registers they leave. -/

namespace Sys2Proof.Machine

/-! ### One pixel of the encoder -/

/-- The kinds whose symbols are palette indices (R188 to R190). -/
def indexed : RecordKind → Bool
  | .pix => false
  | .run => false
  | .idx => true
  | .runi => true
  | .pack1 => true
  | .pack2 => true
  | .pack4 => true
  | .delta => false

/-- `ACC` with lane `ACC_N` filled (R122). -/
def packedAcc (d i : Nat) (w : Work) : Byte := byteOf (w.acc.toNat + i * 2 ^ (8 - d * (w.accN.toNat + 1)))

/-- The run goes on: it is open, the symbol is the same, and the count is below 255 (R160). -/
abbrev runGoesOn (same : Bool) (w : Work) : Prop := w.runCnt ≠ 0 ∧ same = true ∧ w.runCnt.toNat < 255

/-- The bytes of the open run, if there is one. -/
def openRunBytes (kind : RecordKind) (w : Work) : List Byte :=
  if w.runCnt = 0 then [] else runBytes kind w.runCnt w.runVal

/-- The bytes a run-length symbol brings out (R160). -/
def runOutput (kind : RecordKind) (same : Bool) (w : Work) : List Byte :=
  if runGoesOn same w then [] else openRunBytes kind w

/-- The working registers after a run-length symbol, but for `WP`. -/
def runWork (same : Bool) (sym : Pixel) (w : Work) : Work :=
  if runGoesOn same w then { w with runCnt := w.runCnt + 1 } else { w with runVal := sym, runCnt := 1 }

/-- The bytes a packed index brings out (R122). -/
def packOutput (d i : Nat) (w : Work) : List Byte :=
  if w.accN.toNat + 1 = lanesPerByte d then [packedAcc d i w] else []

/-- The working registers after a packed index, but for `WP`. -/
def packWork (d i : Nat) (w : Work) : Work :=
  if w.accN.toNat + 1 = lanesPerByte d then { w with acc := 0, accN := 0 }
  else { w with acc := packedAcc d i w, accN := w.accN + 1 }

/-- The bytes that pixel `p`, of palette index `j`, brings out of the stream encoder (R185 to R191). -/
def pixelOutput (kind : RecordKind) (j : Nat) (p : Pixel) (w : Work) : List Byte :=
  match kind with
  | .pix => encode (.pix p.r p.g p.b)
  | .run => runOutput .run (decide (p = w.runVal)) w
  | .idx => encode (.idx (byteOf j))
  | .runi => runOutput .runi (decide (byteOf j = w.runVal.b)) w
  | .pack1 => packOutput 1 j w
  | .pack2 => packOutput 2 j w
  | .pack4 => packOutput 4 j w
  | .delta => encode (blockFor w.prev p)

/-- The working registers after pixel `p`, of palette index `j`, but for the cursors. -/
def pixelWork (kind : RecordKind) (j : Nat) (p : Pixel) (w : Work) : Work :=
  match kind with
  | .pix => w
  | .run => runWork (decide (p = w.runVal)) p w
  | .idx => w
  | .runi => runWork (decide (byteOf j = w.runVal.b)) (indexSymbol (byteOf j)) w
  | .pack1 => packWork 1 j w
  | .pack2 => packWork 2 j w
  | .pack4 => packWork 4 j w
  | .delta => { w with prev := p }

/-- The bytes `bs` are written and the encoder's registers become those of `w`. -/
def encoderMove (bs : List Byte) (w : Work) (s : State) : State :=
  { s with
    obuf := s.obuf.writeRange s.work.wp bs
    work := { w with wp := s.work.wp + bs.length, rp := s.work.rp, pix := s.work.pix } }

/-- The bytes `bs` are written if they fit `OBUF` (R57, R196). -/
def moveOrOverflow (bs : List Byte) (w : Work) (s : State) : Except Stop State :=
  if fits (s.work.wp + bs.length) s.caps.obuf then .ok (encoderMove bs w s) else .error (.err .bufferOverflow)

theorem moveOrOverflow_nil {w : Work} {s : State} (hfit : fits s.work.wp s.caps.obuf = true) :
    moveOrOverflow [] w s = .ok (encoderMove [] w s) := if_pos hfit

/-- The error of an emission is passed on. -/
theorem emit_bind (bs : List Byte) (s : State) (f : State → State) :
    (match emit bs s with
     | .error e => .error e
     | .ok t => .ok (f t) : Except Stop State) =
      if fits (s.work.wp + bs.length) s.caps.obuf then .ok (f (emitBytes bs s)) else .error (.err .bufferOverflow) := by
  unfold emit
  split_ifs <;> rfl

theorem flushRun_eq {kind : RecordKind} {s : State} (hfit : fits s.work.wp s.caps.obuf = true) :
    flushRun kind s = moveOrOverflow (openRunBytes kind s.work) s.work s := by
  unfold flushRun openRunBytes
  split_ifs
  · exact (moveOrOverflow_nil hfit).symm
  · rfl

theorem runStep_eq {kind : RecordKind} {same : Bool} {sym : Pixel} {s : State} (hfit : fits s.work.wp s.caps.obuf = true) :
    runStep kind same sym s = moveOrOverflow (runOutput kind same s.work) (runWork same sym s.work) s := by
  unfold runStep runOutput runWork
  by_cases hgo : runGoesOn same s.work
  · rw [if_pos hgo, if_pos hgo, if_pos hgo]
    rw [moveOrOverflow_nil hfit]; rfl
  · rw [if_neg hgo, if_neg hgo, if_neg hgo, flushRun_eq hfit]
    unfold moveOrOverflow
    split_ifs <;> rfl

theorem packStep_eq {d i : Nat} {s : State} (hfit : fits s.work.wp s.caps.obuf = true) :
    packStep d i s = moveOrOverflow (packOutput d i s.work) (packWork d i s.work) s := by
  unfold packStep packOutput packWork
  dsimp only
  split_ifs
  · rfl
  · rw [moveOrOverflow_nil hfit]; rfl

/-- One pixel of the encoder, in the form of what it brings out and what it leaves in the registers. -/
theorem encodePixel_eq {kind : RecordKind} {p : Pixel} {j : Nat} {s : State} (hfit : fits s.work.wp s.caps.obuf = true)
    (hj : indexed kind = true → paletteIndex p s = .ok j) :
    encodePixel kind p s = moveOrOverflow (pixelOutput kind j p s.work) (pixelWork kind j p s.work) s := by
  cases kind
  case pix => rfl
  case run => exact runStep_eq hfit
  case idx => simp only [encodePixel, hj rfl]; rfl
  case runi => simp only [encodePixel, hj rfl]; exact runStep_eq hfit
  case pack1 | pack2 | pack4 => simp only [encodePixel, packPixel, hj rfl]; exact packStep_eq hfit
  case delta => exact emit_bind (encode (blockFor s.work.prev p)) s (setPrev p)

/-- A pixel whose palette index cannot be found stops the encoder with the fault of the search. -/
theorem encodePixel_of_index_error {kind : RecordKind} {p : Pixel} {s : State} {e : Stop} (hk : indexed kind = true)
    (h : paletteIndex p s = .error e) : encodePixel kind p s = .error e := by
  cases kind
  case pix | run | delta => cases hk
  all_goals simp only [encodePixel, packPixel, h]

theorem paletteScan_not_err {pal : Memory Pixel} {p : Pixel} {n j : Nat} {e : ErrKind} :
    paletteScan pal p j n ≠ .error (.err e) := by
  intro h
  obtain ⟨_, _, _, _, he⟩ := paletteScan_error h
  cases he

theorem paletteIndex_not_err {p : Pixel} {s : State} {e : ErrKind} : paletteIndex p s ≠ .error (.err e) := by
  intro h
  unfold paletteIndex at h
  split at h
  case h_1 hs => cases h; exact paletteScan_not_err hs
  all_goals cases h

/-- The bytes that the end of the stream brings out (R122, R160). -/
def flushOutput (kind : RecordKind) (w : Work) : List Byte :=
  match kind with
  | .pix => []
  | .run => openRunBytes .run w
  | .idx => []
  | .runi => openRunBytes .runi w
  | .pack1 => if w.accN = 0 then [] else [w.acc]
  | .pack2 => if w.accN = 0 then [] else [w.acc]
  | .pack4 => if w.accN = 0 then [] else [w.acc]
  | .delta => []

/-- The end of the stream, in the same form. -/
theorem flushStream_eq {kind : RecordKind} {s : State} (hfit : fits s.work.wp s.caps.obuf = true) :
    ∃ w, flushStream kind s = moveOrOverflow (flushOutput kind s.work) w s := by
  have hnil : ∀ {k}, flushStream k s = .ok s → flushOutput k s.work = [] →
      ∃ w, flushStream k s = moveOrOverflow (flushOutput k s.work) w s := fun hk ho =>
    ⟨s.work, by rw [hk, ho, moveOrOverflow_nil hfit]; rfl⟩
  have hpack : ∃ w, packFlush s = moveOrOverflow (if s.work.accN = 0 then [] else [s.work.acc]) w s := by
    unfold packFlush
    split_ifs
    · exact ⟨s.work, (moveOrOverflow_nil hfit).symm⟩
    · exact ⟨{ s.work with acc := 0, accN := 0 }, rfl⟩
  cases kind
  case pix | idx | delta => exact hnil rfl rfl
  case run | runi => exact ⟨s.work, flushRun_eq hfit⟩
  all_goals exact hpack

section
variable (bs : List Byte) (w : Work) (s : State)

@[simp] theorem encoderMove_status : (encoderMove bs w s).status = s.status := rfl
@[simp] theorem encoderMove_err : (encoderMove bs w s).err = s.err := rfl
@[simp] theorem encoderMove_version : (encoderMove bs w s).version = s.version := rfl
@[simp] theorem encoderMove_depth : (encoderMove bs w s).depth = s.depth := rfl
@[simp] theorem encoderMove_rle : (encoderMove bs w s).rle = s.rle := rfl
@[simp] theorem encoderMove_width : (encoderMove bs w s).width = s.width := rfl
@[simp] theorem encoderMove_height : (encoderMove bs w s).height = s.height := rfl
@[simp] theorem encoderMove_palSize : (encoderMove bs w s).palSize = s.palSize := rfl
@[simp] theorem encoderMove_pal : (encoderMove bs w s).pal = s.pal := rfl
@[simp] theorem encoderMove_pmem : (encoderMove bs w s).pmem = s.pmem := rfl
@[simp] theorem encoderMove_job : (encoderMove bs w s).job = s.job := rfl
@[simp] theorem encoderMove_caps : (encoderMove bs w s).caps = s.caps := rfl
@[simp] theorem encoderMove_host : (encoderMove bs w s).host = s.host := rfl
@[simp] theorem encoderMove_obuf : (encoderMove bs w s).obuf = s.obuf.writeRange s.work.wp bs := rfl
@[simp] theorem encoderMove_work :
    (encoderMove bs w s).work = { w with wp := s.work.wp + bs.length, rp := s.work.rp, pix := s.work.pix } := rfl

end

end Sys2Proof.Machine
end

section
/-! Host accesses and the phases of `DEC` keep a legal state legal. -/

namespace Sys2Proof.Machine

/-! ### The host's accesses -/

theorem EngineInv.setHost {s : State} (h : EngineInv s) (ops : List HostOp) : EngineInv (setHost ops s) := by
  obtain ⟨⟨hb, he, hk⟩, hs, hj⟩ := (engineInv_iff s).1 h
  exact (engineInv_iff _).2 ⟨⟨hb, he, hk⟩, hs, hj⟩

theorem EngineInv.answer {s : State} (h : EngineInv s) (r : Resp) : EngineInv (answer r s) := by
  obtain ⟨⟨hb, he, hk⟩, hs, hj⟩ := (engineInv_iff s).1 h
  exact (engineInv_iff _).2 ⟨⟨hb, he, hk⟩, hs, hj⟩

theorem EngineInv.job_eq_none {s : State} (h : EngineInv s) (hb : s.status ≠ .busy) : s.job = .none :=
  not_not.1 fun hj => hb (h.control.busy_iff.2 hj)

/-- Outside a command the host may change whatever keeps the stores and the control registers. -/
theorem EngineInv.of_idle {s t : State} (h : EngineInv s) (hb : s.status ≠ .busy) (hs : StoreInv t) (hst : t.status = s.status)
    (he : t.err = s.err) (hj : t.job = s.job) : EngineInv t :=
  engineInv_of_no_job hs (hj.trans (h.job_eq_none hb)) (hst ▸ hb) (by rw [he, hst]; exact h.control.err_iff)
    (he ▸ h.control.err_kind)

/-- A command starts in a legal state at its first phase. -/
theorem EngineInv.startCommand {s : State} (h : EngineInv s) {j : Job} (hj : j ≠ .none)
    (hi : JobInv (startCommand j s)) : EngineInv (startCommand j s) :=
  Running.engineInv ⟨rfl, rfl⟩ { h.store with accN := by simp [initWork] } hj hi

theorem EngineInv.clearCommand {s : State} (h : EngineInv s) (hb : s.status ≠ .busy) : EngineInv (clearCommand s) :=
  engineInv_of_no_job h.store (h.job_eq_none hb) (by simp) (by simp) (by simp)

theorem unlessBusy_keeps {act : State → State} {s t : State} (h : EngineInv s)
    (hact : s.status ≠ .busy → EngineInv (act s)) (ht : unlessBusy act s = .next t) : EngineInv t := by
  unfold unlessBusy at ht
  split_ifs at ht with hb <;> cases ht
  · exact h
  · exact hact hb

theorem exec_command_keeps {op : BitVec 2} {s t : State} (h : EngineInv s) (ht : exec (decodeCmd op) s = .next t) :
    EngineInv t := by
  unfold decodeCmd at ht
  split_ifs at ht
  · exact unlessBusy_keeps h (fun _ => h.startCommand (j := .encStart) (by simp) ⟨⟨rfl, rfl, rfl, rfl, rfl⟩, rfl⟩) ht
  · exact unlessBusy_keeps h (fun _ => h.startCommand (j := .decHeader) (by simp) ⟨rfl, rfl, rfl⟩) ht
  · exact unlessBusy_keeps h h.clearCommand ht
  · exact unlessBusy_keeps h (fun _ => h) ht

theorem readCell_keeps {α : Type} {m : Space} {mem : Memory α} {cap : Option Nat} {resp : α → Resp} {a : Nat} {s t : State}
    (h : EngineInv s) (ht : readCell m mem cap resp a s = .next t) : EngineInv t := by
  unfold readCell at ht
  split_ifs at ht
  split at ht <;> cases ht
  exact h.answer _

/-- A register write changes one of the host's own registers, or nothing. -/
theorem regWrite_some {off : Nat} {v : Word} {s t : State} (h : regWrite off v s = some t) :
    t = { s with version := t.version, depth := t.depth, rle := t.rle, width := t.width, height := t.height,
                 inLen := t.inLen } := by
  unfold regWrite at h
  split at h <;> cases h <;> rfl

theorem regWrite_keeps {off : Nat} {v : Word} {s t : State} (h : EngineInv s) (hb : s.status ≠ .busy)
    (ht : regWrite off v s = some t) : EngineInv t := by
  rw [regWrite_some ht]
  exact h.of_idle hb h.store rfl rfl rfl

theorem resetEngine_keeps {s : State} (h : EngineInv s) : EngineInv (resetEngine s) :=
  engineInv_of_no_job h.store.resetEngine rfl (by simp [State.reset]) (by simp [State.reset]) (by simp [State.reset])

/-- Every host access keeps the invariant. -/
theorem hostAccess_keeps {op : HostOp} {s t : State} (h : EngineInv s) (ht : hostAccess op s = .next t) : EngineInv t := by
  unfold hostAccess at ht
  split_ifs at ht with hacc
  have hidle : allowedWhileBusy op = false → s.status ≠ .busy := fun ha hb => hacc ⟨hb, ha⟩
  cases op
  case tick => cases ht; exact h
  case wait => cases ht; exact h.answer _
  case readReg off =>
    simp only [portAccess, portReadReg] at ht
    split at ht <;> cases ht
    exact h.answer _
  case writeReg off v =>
    simp only [portAccess] at ht
    split_ifs at ht with hoff
    · exact exec_command_keeps (h.answer _) ht
    · unfold portWriteReg at ht
      split at ht <;> cases ht
      exact (regWrite_keeps h (hidle (by simpa [allowedWhileBusy] using hoff)) ‹_›).answer _
  case readIbuf | readObuf | readPal => exact readCell_keeps h ht
  case writeIbuf a v =>
    simp only [portAccess, portWriteIbuf] at ht
    split_ifs at ht with hfit
    cases ht
    exact (h.of_idle (hidle rfl) (h.store.writeByte hfit v) rfl rfl rfl).answer _
  case pixelRead x y =>
    simp only [portAccess, portPixelRead] at ht
    split_ifs at ht
    · exact readCell_keeps h ht
    · cases ht; exact h.answer _
  case pixelWrite x y p =>
    simp only [portAccess, portPixelWrite] at ht
    split_ifs at ht with hin hfit <;> cases ht
    · exact (h.of_idle (hidle rfl) (h.store.writePixel hfit p) rfl rfl rfl).answer _
    · exact h.answer _
  case rst => cases ht; exact (resetEngine_keeps h).answer _

/-! ### The phases of `DEC` -/

/-- A palette register and the entries below it make a list. -/
theorem exists_paletteIs {s : State} {k : Nat} (hk : s.palSize.toNat = k) (hw : palWritten s k) : ∃ pal, PaletteIs pal s := by
  obtain ⟨pal, hpal⟩ := (Memory.readRange_isSome s.pal 0 k).2 fun i hi => by simpa using hw i hi
  have hl := Memory.readRange_length hpal
  exact ⟨pal, by rw [hk, hl], by rw [hl]; exact hpal⟩

/-- A record that was fetched ends no later than the file. -/
theorem fetched_within {c : Ctx} {s : State} {bs rest : List Byte} {i : Instr} (hf : fetchRecord c s = .bytes bs)
    (hd : decode c bs = .ok (i, rest)) : s.work.rp + (encode i).length ≤ s.inLen.toNat := by
  obtain ⟨pre, -, hlen, -, hread⟩ := fetchRecord_bytes hf
  have h1 := Memory.readRange_length hread
  have h2 := (decode_rest hd).2
  omega

theorem isCode_formatError : IsCode .formatError := by simp [IsCode]
theorem isCode_pixelCountMismatch : IsCode .pixelCountMismatch := by simp [IsCode]
theorem isCode_bufferOverflow : IsCode .bufferOverflow := by simp [IsCode]

/-- The pixel stream begins in a legal state. -/
theorem beginStream_keeps {h : Hdr} {s : State} (hs : StoreInv s) (hr : Running s) (hl : legalHdr h)
    (hpix : s.work.pix = 0) (hrp : s.work.rp ≤ s.inLen.toNat) (hhl : h.headerLen.toNat ≤ s.work.rp)
    (hk : s.palSize.toNat = h.k) (hw : palWritten s h.k) : Keeps (beginStream h s) := by
  rcases beginStream_cases h s with ⟨he, -⟩ | ⟨he, -⟩ | ⟨he, hfit⟩ <;> rw [he]
  · exact .of_err isCode_bufferOverflow
  · exact .of_err isCode_pixelCountMismatch
  · refine .of_ok (Running.engineInv ⟨hr.status, hr.err⟩ hs (by simp) ?_)
    exact ⟨hl, hfit, by simp [hpix], hrp, hhl, hk, hw⟩

/-- The header of a version 1, 2 or 4 file (R217). -/
def plainHdr (v : Byte) (w h : Half) (kind : RecordKind) : Hdr :=
  { version := v, headerLen := 12, width := w, height := h, depth := 0, rle := 0, k := 0, kind := kind }

/-- The header of a version 3 file (R217). -/
def version3Hdr (hl w h : Half) (d f : Byte) (kind : RecordKind) : Hdr :=
  { version := 3, headerLen := hl, width := w, height := h, depth := d, rle := f, k := paletteEntries hl d, kind := kind }

/-- The number of palette entries of a legal header, and the length they give it (R215). -/
theorem legalHdr3_entries {hl : Half} {d f : Byte} (h : legalHdr3 hl.toNat d f) :
    hl.toNat = 14 + 3 * paletteEntries hl d ∧ paletteEntries hl d ≤ 2 ^ d.toNat ∧ paletteEntries hl d ≤ 256 := by
  obtain ⟨hd, -, -, hlen⟩ := h
  unfold paletteEntries
  split_ifs at hlen ⊢ with h24
  · exact ⟨hlen, Nat.zero_le _, Nat.zero_le _⟩
  · obtain ⟨h14, hmod, hcap⟩ := hlen
    have h256 : 2 ^ d.toNat ≤ 256 := by
      rcases hd with rfl | rfl | rfl | rfl | rfl
      case inr.inr.inr.inr => exact absurd rfl h24
      all_goals decide
    omega

theorem legalHdr_plainHdr {v : Byte} {w h : Half} {kind : RecordKind} (hv : v = 1 ∨ v = 2 ∨ v = 4)
    (hk : streamKind v 0 0 = some kind) : legalHdr (plainHdr v w h kind) := by
  have hv3 : v ≠ 3 := by rintro rfl; simp at hv
  refine ⟨hk, Nat.zero_le _, ?_⟩
  rw [if_neg (show (plainHdr v w h kind).version ≠ 3 from hv3)]
  exact ⟨rfl, rfl, rfl, rfl⟩

theorem legalHdr_version3Hdr {hl w h : Half} {d f : Byte} {kind : RecordKind} (hl3 : legalHdr3 hl.toNat d f)
    (hk : streamKind 3 d f = some kind) : legalHdr (version3Hdr hl w h d f kind) :=
  ⟨hk, (legalHdr3_entries hl3).2.2, by
    rw [if_pos (show (version3Hdr hl w h d f kind).version = 3 from rfl)]; exact ⟨hl3, rfl⟩⟩

theorem parse12_keeps {v : Byte} {w h : Half} {s : State} (hi : EngineInv s) (hj : s.job = .decHeader) :
    Keeps (parse12 v w h s) := by
  have hjob := hi.job
  simp only [JobInv, hj] at hjob
  obtain ⟨hrp, hpix, -⟩ := hjob
  have hr := hi.running (by simp [hj])
  unfold parse12
  by_cases hbad : ¬ (v = 1 ∨ v = 2 ∨ v = 4) ∨ s.inLen.toNat < 12
  · rw [if_pos hbad]; exact .of_err isCode_formatError
  rw [if_neg hbad]
  split
  · exact .of_err isCode_formatError
  · rename_i kind hkind
    have hl : legalHdr (plainHdr v w h kind) := legalHdr_plainHdr (not_not.1 (not_or.1 hbad).1) hkind
    refine beginStream_keeps (hi.store.setPalSize (Nat.zero_le _)) ⟨hr.status, hr.err⟩ hl hpix ?_ ?_ rfl (fun j hj => ?_)
    · simp only [skipBytes_work, setPalSize_work, hrp, skipBytes_inLen, setPalSize_inLen]; omega
    · simp [hrp]
    · cases hj

theorem parse3_keeps {hl w h : Half} {d f : Byte} {s : State} (hi : EngineInv s) (hj : s.job = .decHeader) :
    Keeps (parse3 hl w h d f s) := by
  have hjob := hi.job
  simp only [JobInv, hj] at hjob
  obtain ⟨hrp, hpix, hprev⟩ := hjob
  have hr := hi.running (by simp [hj])
  unfold parse3
  by_cases hbad : ¬ legalHdr3 hl.toNat d f ∨ s.inLen.toNat < hl.toNat
  · rw [if_pos hbad]; exact .of_err isCode_formatError
  rw [if_neg hbad]
  obtain ⟨hlegal, hin⟩ := not_or.1 hbad
  rw [not_not] at hlegal
  obtain ⟨hlen, -, hk⟩ := legalHdr3_entries hlegal
  split
  · exact .of_err isCode_formatError
  · rename_i kind hkind
    have hhdr : legalHdr (version3Hdr hl w h d f kind) := legalHdr_version3Hdr hlegal hkind
    have hs := hi.store.setPalSize hk
    have hsize : (setPalSize (paletteEntries hl d) s).palSize.toNat = paletteEntries hl d := by
      simp only [setPalSize_palSize, BitVec.toNat_ofNat]; omega
    dsimp only
    split_ifs with hk0
    · refine beginStream_keeps hs ⟨hr.status, hr.err⟩ hhdr hpix ?_ ?_ hsize (fun j hj => ?_)
      · simp only [skipBytes_work, setPalSize_work, hrp, skipBytes_inLen, setPalSize_inLen]; omega
      · simp only [skipBytes_work, setPalSize_work, hrp]; omega
      · simp only [hk0] at hj; omega
    · refine .of_ok (Running.engineInv ⟨hr.status, hr.err⟩ hs (by simp) ?_)
      refine ⟨hhdr, Nat.pos_of_ne_zero hk0, ?_, hlen, not_lt.1 hin, hpix, hprev, hsize, fun j hj => absurd hj (by omega)⟩
      simp only [setJob_work, skipBytes_work, setPalSize_work, hrp]

theorem loadEntry_keeps {hd : Hdr} {i : Nat} {p : Pixel} {s : State} (hi : EngineInv s) (hj : s.job = .decPalette hd i) :
    Keeps (loadEntry hd i p s) := by
  have hjob := hi.job
  simp only [JobInv, hj] at hjob
  obtain ⟨hl, hik, hrp, hlen, hin, hpix, hprev, hsize, hw⟩ := hjob
  have hr := hi.running (by simp [hj])
  have hs := hi.store.writePal (show i < 256 by have := hl.2.1; omega) p
  have hw' : palWritten (skipBytes 3 (writePal i p s)) (i + 1) := by
    intro j hj
    simp only [skipBytes_pal, writePal_pal, Memory.read_write]
    split_ifs with hji
    · simp
    · exact hw j (by omega)
  unfold loadEntry
  dsimp only
  split_ifs with hlast
  · refine .of_ok (Running.engineInv ⟨hr.status, hr.err⟩ hs (by simp) ?_)
    refine ⟨hl, hlast, ?_, hlen, hin, hpix, hprev, hsize, hw'⟩
    simp only [setJob_work, skipBytes_work, writePal_work, hrp]; omega
  · have hk : i + 1 = hd.k := by omega
    refine beginStream_keeps hs ⟨hr.status, hr.err⟩ hl hpix ?_ ?_ hsize (hk ▸ hw')
    · simp only [skipBytes_work, writePal_work, skipBytes_inLen, writePal_inLen]; omega
    · simp only [skipBytes_work, writePal_work]; omega

/-- One record of the pixel stream. -/
theorem exec_record_keeps {h : Hdr} {i : Instr} {s t : State} (hi : EngineInv s) (hj : s.job = .decStream h)
    (hctx : ctxOf i = .stream h.kind) (hp : s.work.pix < h.pixels)
    (hfile : s.work.rp + (encode i).length ≤ s.inLen.toNat) (ht : exec i s = .next t) : EngineInv t := by
  have hjob := hi.job
  simp only [JobInv, hj] at hjob
  obtain ⟨hl, hfit, hpix, hrp, hhl, hsize, hw⟩ := hjob
  have hr := hi.running (by simp [hj])
  obtain ⟨pal, hpal⟩ := exists_paletteIs hsize hw
  have hdoes := exec_record hj hctx hp hpal
  cases hres : recordPixels pal s.work.prev (h.pixels - s.work.pix) i with
  | error e =>
    rw [hres] at hdoes
    cases ht.symm.trans hdoes
    exact hi.store.engineInv_raise (recordPixels_error hres)
  | ok ps =>
    rw [hres] at hdoes
    obtain ⟨prev, acc, n, hexec, -, hn⟩ := hdoes
    cases ht.symm.trans hexec
    have hlen := (recordPixels_length (by omega) hres).2
    have hn8 : n.toNat ≤ 8 := hn.elim (fun e => e ▸ hi.accN) id
    have hs : StoreInv (storeRecord ps (encode i).length prev acc n s) :=
      StoreInv.setAcc (s := putPixels ps (encode i).length s) (hi.store.putPixels (fits_le hfit (by omega)) _) acc hn8
    refine Running.engineInv ⟨hr.status, hr.err⟩ hs (by simp [storeRecord, hj]) ?_
    have hjob' : (storeRecord ps (encode i).length prev acc n s).job = .decStream h := hj
    simp only [JobInv, hjob']
    refine ⟨hl, hfit, ?_, hfile, ?_, hsize, hw⟩
    · simp only [storeRecord, setPrev_work, setAcc_work, putPixels_work]; omega
    · simp only [storeRecord, setPrev_work, setAcc_work, putPixels_work]; omega

theorem endStream_keeps {h : Hdr} {s : State} (hi : EngineInv s) (hj : s.job = .decStream h) : Keeps (endStream h s) := by
  have hjob := hi.job
  simp only [JobInv, hj] at hjob
  have hr := hi.running (by simp [hj])
  unfold endStream
  split_ifs
  · exact .of_ok (engineInv_of_no_job (hi.store.finishDec hjob.1.2.1) rfl (by simp) (by simp [hr.err]) (by simp [hr.err]))
  · exact .of_err isCode_pixelCountMismatch

/-- A record step of `DEC` keeps the invariant where executing what was decoded does. -/
theorem runRecordAt_keeps {c : Ctx} {s t : State} (hi : EngineInv s)
    (hexec : ∀ i, ctxOf i = c → s.work.rp + (encode i).length ≤ s.inLen.toNat → exec i s = .next t → EngineInv t)
    (ht : runRecordAt c s = .next t) : EngineInv t := by
  obtain ⟨e, he, he', rfl⟩ | ⟨i, bs, rest, hf, hd, hctx, hx⟩ := runRecordAt_next ht
  · exact hi.store.engineInv_raise ⟨he, he'⟩
  · exact hexec i hctx (fetched_within hf hd) hx

theorem headerParseStep_keeps {s t : State} (hi : EngineInv s) (hj : s.job = .decHeader)
    (ht : headerParseStep s = .next t) : EngineInv t := by
  unfold headerParseStep at ht
  split_ifs at ht
  · refine runRecordAt_keeps hi (fun i hctx _ hx => ?_) ht
    cases i
    case hdr12 => simp only [exec, execHdr12, hj] at hx; exact (parse12_keeps hi hj).settle hi.store hx
    case hdr3 => simp only [exec, execHdr3, hj] at hx; exact (parse3_keeps hi hj).settle hi.store hx
    all_goals cases hctx
  · cases ht
    exact hi.store.engineInv_raise isCode_bufferOverflow

theorem paletteEntry_keeps {hd : Hdr} {i : Nat} {s t : State} (hi : EngineInv s) (hj : s.job = .decPalette hd i)
    (ht : runRecordAt .palette s = .next t) : EngineInv t := by
  refine runRecordAt_keeps hi (fun i hctx _ hx => ?_) ht
  cases i
  case pal => simp only [exec, execPal, hj] at hx; exact (loadEntry_keeps hi hj).settle hi.store hx
  all_goals cases hctx

theorem decodeStep_keeps {h : Hdr} {s t : State} (hi : EngineInv s) (hj : s.job = .decStream h)
    (ht : decodeStep h s = .next t) : EngineInv t := by
  unfold decodeStep at ht
  split_ifs at ht with hp
  · exact runRecordAt_keeps hi (fun i hctx hfile hx => exec_record_keeps hi hj hctx hp hfile hx) ht
  · exact (endStream_keeps hi hj).settle hi.store ht

end Sys2Proof.Machine
end

section
/-! The phases of `ENC` keep a legal state legal, and so does every step. -/

namespace Sys2Proof.Machine

/-! ### The phases of `ENC` -/

/-- A state with the same memories to read and the same configuration meets the same conditions of `ENC`. -/
structure SameSource (s t : State) : Prop where
  version : t.version = s.version
  depth : t.depth = s.depth
  rle : t.rle = s.rle
  width : t.width = s.width
  height : t.height = s.height
  caps : t.caps = s.caps
  pmem : t.pmem = s.pmem

theorem SameSource.pixelCount {s t : State} (h : SameSource s t) : pixelCount t = pixelCount s := by
  simp only [Machine.pixelCount, h.width, h.height]

theorem SameSource.legalEnc {s t : State} {kind : RecordKind} (h : SameSource s t) (hl : legalEnc kind s) : legalEnc kind t := by
  simpa only [Machine.legalEnc, h.version, h.depth, h.rle, h.caps, h.pixelCount] using hl

/-- And with the same palette. -/
structure SamePalette (s t : State) : Prop extends SameSource s t where
  palSize : t.palSize = s.palSize
  pal : t.pal = s.pal

theorem SamePalette.builtPalette {s t : State} (h : SamePalette s t) (hb : builtPalette s) : builtPalette t := by
  simpa only [Machine.builtPalette, palWritten, palCovers, h.version, h.depth, h.pmem, h.palSize, h.pal, h.pixelCount] using hb

theorem samePalette_encoderMove (bs : List Byte) (w : Work) (s : State) : SamePalette s (encoderMove bs w s) :=
  ⟨⟨rfl, rfl, rfl, rfl, rfl, rfl, rfl⟩, rfl, rfl⟩

theorem encStart_keeps {s : State} (hi : EngineInv s) (hj : s.job = .encStart) : Keeps (encStart s) := by
  have hjob := hi.job
  simp only [JobInv, hj] at hjob
  obtain ⟨hfresh, hwp⟩ := hjob
  have hr := hi.running (by simp [hj])
  unfold encStart
  by_cases hlegal : legalConfig s.version s.depth
  case neg => rw [if_pos hlegal]; exact .of_err (by simp [IsCode])
  rw [if_neg (not_not.2 hlegal)]
  by_cases hfit : fits (pixelCount s) s.caps.pmem = true
  case neg => rw [if_pos (by simpa using hfit)]; exact .of_err isCode_bufferOverflow
  rw [if_neg (by simp [hfit])]
  split
  · exact .of_err (by simp [IsCode])
  · rename_i kind hkind
    have hl : legalEnc kind s := ⟨hlegal, hfit, hkind⟩
    split_ifs with hpal
    · refine .of_ok (Running.engineInv ⟨hr.status, hr.err⟩ (hi.store.setPalSize (Nat.zero_le _)) (by simp) ?_)
      exact ⟨hl, hpal, hfresh, hwp, Nat.zero_le _, Nat.zero_le _, fun j hj => absurd hj (by simp), fun j hj => absurd hj (by simp)⟩
    · refine .of_ok (Running.engineInv ⟨hr.status, hr.err⟩ hi.store (by simp) ?_)
      exact ⟨hl, hfresh, hwp, fun hp => absurd hp hpal⟩

/-- A palette never outgrows `PAL` (R24, R181). -/
theorem two_pow_depth_le {v d : Byte} (h : legalConfig v d) (hp : usesPalette v d) : 2 ^ d.toNat ≤ 256 := by
  obtain ⟨hv, h24⟩ := hp
  rcases h.2 hv with rfl | rfl | rfl | rfl | rfl
  case inr.inr.inr.inr => exact absurd rfl h24
  all_goals decide

theorem paletteStep_keeps {kind : RecordKind} {i : Nat} {s : State} (hi : EngineInv s) (hj : s.job = .encPalette kind i) :
    Keeps (paletteStep kind i s) := by
  have hjob := hi.job
  simp only [JobInv, hj] at hjob
  obtain ⟨hl, hpal, hfresh, hwp, hicount, hsize, hw, hcov⟩ := hjob
  have hr := hi.running (by simp [hj])
  have h256 := two_pow_depth_le hl.1 hpal
  unfold paletteStep
  by_cases hend : pixelCount s ≤ i
  · rw [if_pos hend]
    refine .of_ok (Running.engineInv ⟨hr.status, hr.err⟩ hi.store (by simp) ?_)
    exact ⟨hl, hfresh, hwp, fun _ => ⟨hsize, hw, fun j hj => hcov j (lt_of_lt_of_le hj hend)⟩⟩
  rw [if_neg hend]
  split
  · rename_i e he
    rw [(readPixel_error he).2]; exact .of_fault _
  rename_i p hp
  rw [readPixel_ok] at hp
  split
  · rename_i e he
    obtain ⟨_, _, _, _, rfl⟩ := paletteScan_error he
    exact .of_fault _
  · rename_i q hq
    obtain ⟨-, hqlt, hqp, -⟩ := paletteScan_some hq
    refine .of_ok (Running.engineInv ⟨hr.status, hr.err⟩ hi.store (by simp) ?_)
    refine ⟨hl, hpal, hfresh, hwp, not_le.1 hend, hsize, hw, fun j hj p' hp' => ?_⟩
    rcases Nat.lt_succ_iff_lt_or_eq.1 hj with hlt | rfl
    · exact hcov j hlt p' hp'
    · cases hp.symm.trans hp'
      exact ⟨q, by simpa using hqlt, hqp⟩
  · split_ifs with hcap
    · exact .of_err (by simp [IsCode])
    have hnew : (BitVec.ofNat 9 (s.palSize.toNat + 1)).toNat = s.palSize.toNat + 1 := by
      simp only [BitVec.toNat_ofNat]; omega
    have hs := (hi.store.writePal (show s.palSize.toNat < 256 by omega) p).setPalSize
      (show s.palSize.toNat + 1 ≤ 256 by omega)
    refine .of_ok (Running.engineInv ⟨hr.status, hr.err⟩ hs (by simp) ?_)
    refine ⟨hl, hpal, hfresh, hwp, not_le.1 hend, ?_, ?_, fun j hj p' hp' => ?_⟩
    · simp only [setJob_palSize, setPalSize_palSize, hnew, setJob_depth, setPalSize_depth, writePal_depth]; omega
    · intro j hj
      simp only [setJob_palSize, setPalSize_palSize, hnew] at hj
      simp only [setJob_pal, setPalSize_pal, writePal_pal, Memory.read_write]
      split_ifs with hjn
      · simp
      · exact hw j (by omega)
    · simp only [setJob_palSize, setPalSize_palSize, hnew, setJob_pal, setPalSize_pal, writePal_pal, Memory.read_write]
      rcases Nat.lt_succ_iff_lt_or_eq.1 hj with hlt | rfl
      · obtain ⟨q, hq, hqp⟩ := hcov j hlt p' hp'
        exact ⟨q, by omega, by rw [if_neg (by omega)]; exact hqp⟩
      · cases hp.symm.trans hp'
        exact ⟨s.palSize.toNat, by omega, if_pos rfl⟩

theorem encode_headerInstr_length (s : State) : (encode (headerInstr s)).length = if s.version = 3 then 14 else 12 := by
  unfold headerInstr
  split_ifs <;> rfl

theorem headerStep_keeps {kind : RecordKind} {s : State} (hi : EngineInv s) (hj : s.job = .encHeader kind) :
    Keeps (headerStep kind s) := by
  have hjob := hi.job
  simp only [JobInv, hj] at hjob
  obtain ⟨hl, hfresh, hwp, hbuilt⟩ := hjob
  have hr := hi.running (by simp [hj])
  unfold headerStep
  cases he : emit (encode (headerInstr s)) s with
  | error e => rw [emit_error he]; exact .of_err isCode_bufferOverflow
  | ok t =>
    obtain ⟨hfit, rfl⟩ := emit_ok he
    refine .of_ok (Running.engineInv ⟨hr.status, hr.err⟩ (hi.store.emitBytes hfit) (by simp) ?_)
    refine ⟨hl, hfresh, hbuilt, Nat.zero_le _, ?_, hfit⟩
    simp only [setJob_work, emitBytes_work, hwp, encode_headerInstr_length]
    show 0 + _ + 3 * entryCount s = headerLength s + 3 * 0
    unfold headerLength
    split_ifs with hv
    · omega
    · have : entryCount s = 0 := if_neg fun hp => hv hp.1
      omega

theorem paletteOutStep_keeps {kind : RecordKind} {i : Nat} {s : State} (hi : EngineInv s) (hj : s.job = .encPalOut kind i) :
    Keeps (paletteOutStep kind i s) := by
  have hjob := hi.job
  simp only [JobInv, hj] at hjob
  obtain ⟨hl, hfresh, hbuilt, hicount, hwp, hwfit⟩ := hjob
  have hr := hi.running (by simp [hj])
  unfold paletteOutStep
  split_ifs with hlast
  · split
    · exact .of_fault _
    rename_i p hp
    cases he : emit (encode (.pal p.r p.g p.b)) s with
    | error e => rw [emit_error he]; exact .of_err isCode_bufferOverflow
    | ok t =>
      obtain ⟨hfit, rfl⟩ := emit_ok he
      refine .of_ok (Running.engineInv ⟨hr.status, hr.err⟩ (hi.store.emitBytes hfit) (by simp) ?_)
      refine ⟨hl, hfresh, hbuilt, hlast, ?_, hfit⟩
      show s.work.wp + 3 + 3 * entryCount s = headerLength s + 3 * (i + 1)
      omega
  · refine .of_ok (Running.engineInv ⟨hr.status, hr.err⟩ hi.store (by simp) ?_)
    refine ⟨hl, hbuilt, ?_, ?_, hwfit, fun d hd => ?_⟩
    · simp [hfresh.1]
    · show headerLength s ≤ s.work.wp
      omega
    · simp only [setJob_work, hfresh.2.2.2.1]
      cases kind <;> cases hd <;> decide

/-- The lanes taken so far stay below a full byte, and `ACC_N` within its range. -/
theorem pixelWork_accN {kind : RecordKind} {j : Nat} {p : Pixel} {w : Work} (h8 : w.accN.toNat ≤ 8)
    (h : ∀ d, packDepth kind = some d → w.accN.toNat < lanesPerByte d) :
    (pixelWork kind j p w).accN.toNat ≤ 8 ∧
    ∀ d, packDepth kind = some d → (pixelWork kind j p w).accN.toNat < lanesPerByte d := by
  have hrun : ∀ same sym, (runWork same sym w).accN = w.accN := by
    intro same sym
    unfold runWork
    split_ifs <;> rfl
  have hpack : ∀ d i, w.accN.toNat < lanesPerByte d → lanesPerByte d ≤ 8 →
      (packWork d i w).accN.toNat ≤ 8 ∧ (packWork d i w).accN.toNat < lanesPerByte d := by
    intro d i hlt hle
    unfold packWork
    split_ifs with hfull
    · exact ⟨Nat.zero_le 8, lt_of_le_of_lt (Nat.zero_le _) hlt⟩
    · have hone : (1 : BitVec 4).toNat = 1 := rfl
      simp only [BitVec.toNat_add, hone]
      omega
  cases kind
  case pix | idx | delta => exact ⟨h8, h⟩
  case run | runi =>
    simp only [pixelWork, hrun]
    exact ⟨h8, h⟩
  case pack1 | pack2 | pack4 =>
    obtain ⟨hle, hlt⟩ := hpack _ j (h _ rfl) (by decide)
    exact ⟨hle, by rintro _ ⟨⟩; exact hlt⟩

/-- What the encoder brings out keeps the stores legal. -/
theorem StoreInv.encoderMove {s : State} (h : StoreInv s) {bs : List Byte} {w : Work}
    (hb : fits (s.work.wp + bs.length) s.caps.obuf = true) (hn : w.accN.toNat ≤ 8) : StoreInv (encoderMove bs w s) :=
  { h with obuf := h.obuf.writeRange bs hb, accN := hn }

theorem encodePixel_keeps {kind : RecordKind} {p : Pixel} {s : State} (hi : EngineInv s) (hj : s.job = .encStream kind)
    (hp : s.work.pix < pixelCount s) :
    Keeps (match encodePixel kind p s with
      | .error e => .error e
      | .ok t => .ok (nextPixel t)) := by
  have hjob := hi.job
  simp only [JobInv, hj] at hjob
  obtain ⟨hl, hbuilt, -, hhl, hwfit, hlanes⟩ := hjob
  have hr := hi.running (by simp [hj])
  by_cases hfind : indexed kind = true ∧ ∃ e, paletteIndex p s = .error e
  · obtain ⟨hk, e, he⟩ := hfind
    rw [encodePixel_of_index_error hk he]
    cases e with
    | err e => exact absurd he paletteIndex_not_err
    | fault f => exact .of_fault f
  obtain ⟨q, hq⟩ : ∃ q, indexed kind = true → paletteIndex p s = .ok q := by
    cases hres : paletteIndex p s with
    | error e => exact ⟨0, fun hk => absurd ⟨hk, e, hres⟩ hfind⟩
    | ok q => exact ⟨q, fun _ => rfl⟩
  rw [encodePixel_eq hwfit hq, moveOrOverflow]
  split_ifs with hfit
  · obtain ⟨h8, hlanes'⟩ := pixelWork_accN (j := q) (p := p) hi.accN hlanes
    have hsame := samePalette_encoderMove (pixelOutput kind q p s.work) (pixelWork kind q p s.work) s
    have hs : StoreInv (nextPixel (encoderMove (pixelOutput kind q p s.work) (pixelWork kind q p s.work) s)) :=
      hi.store.encoderMove hfit h8
    refine .of_ok (Running.engineInv ⟨hr.status, hr.err⟩ hs (by simp [hj]) ?_)
    simp only [JobInv, nextPixel_job, encoderMove_job, hj]
    exact ⟨hsame.legalEnc hl, hsame.builtPalette hbuilt, hp, le_trans hhl (Nat.le_add_right _ _), hfit, hlanes'⟩
  · exact .of_err isCode_bufferOverflow

/-- A palette that `ENC` stores has no more entries than `PAL`. -/
theorem entryCount_le {s : State} (h : s.palSize.toNat ≤ 256) : entryCount s ≤ 256 := by
  unfold entryCount
  split_ifs <;> omega

theorem encodeStep_keeps {kind : RecordKind} {s : State} (hi : EngineInv s) (hj : s.job = .encStream kind) :
    Keeps (encodeStep kind s) := by
  have hjob := hi.job
  simp only [JobInv, hj] at hjob
  obtain ⟨-, -, -, -, hwfit, -⟩ := hjob
  have hr := hi.running (by simp [hj])
  unfold encodeStep
  split_ifs with hp
  · split
    · rename_i e he
      rw [(readPixel_error he).2]; exact .of_fault _
    · exact encodePixel_keeps hi hj hp
  · obtain ⟨w, hw⟩ := flushStream_eq (kind := kind) hwfit
    rw [hw, moveOrOverflow]
    split_ifs with hfit
    · -- the end of the command replaces the working registers, so `ACC_N` may be taken as 0 here
      have hs : StoreInv (encoderMove (flushOutput kind s.work) { w with accN := 0 } s) :=
        hi.store.encoderMove hfit (by simp)
      have hk : entryCount (encoderMove (flushOutput kind s.work) w s) ≤ 256 := entryCount_le hi.palSize
      exact .of_ok (engineInv_of_no_job (StoreInv.finishEnc (s := encoderMove _ _ s) hs _ hk) rfl (by simp) (by simp [hr.err])
        (by simp [hr.err]))
    · exact .of_err isCode_bufferOverflow

/-! ### Every step -/

/-- Every step of the engine keeps the invariant. -/
theorem engineStep_keeps {s t : State} (hi : EngineInv s) (ht : engineStep s = .next t) : EngineInv t := by
  unfold engineStep at ht
  split at ht
  case h_1 => cases ht; exact hi
  case h_2 hj => exact headerParseStep_keeps hi hj ht
  case h_3 hj => exact paletteEntry_keeps hi hj ht
  case h_4 hj => exact decodeStep_keeps hi hj ht
  case h_5 hj => exact (encStart_keeps hi hj).settle hi.store ht
  case h_6 hj => exact (paletteStep_keeps hi hj).settle hi.store ht
  case h_7 hj => exact (headerStep_keeps hi hj).settle hi.store ht
  case h_8 hj => exact (paletteOutStep_keeps hi hj).settle hi.store ht
  case h_9 hj => exact (encodeStep_keeps hi hj).settle hi.store ht

/-- Settles O51: a step is a step of the engine or an access of the host, and each keeps the phase condition of the
command in progress. -/
theorem stepKeepsLegal : Obligations.StepKeepsLegal := by
  intro s t hi ht
  unfold step machineStep at ht
  split at ht
  · exact engineStep_keeps hi ht
  · exact engineStep_keeps (hi.setHost _) ht
  · split_ifs at ht
    · exact engineStep_keeps hi ht
    · exact hostAccess_keeps (hi.setHost _) ht
  · exact hostAccess_keeps (hi.setHost _) ht

end Sys2Proof.Machine
end

section
/-! What it means that a command ends with an outcome of the function level. -/

namespace Sys2Proof.Machine

/-! ### Commands that run to their end -/

/-- A state in which a command ended with outcome `r` of the function level: its error, or its result delivered. -/
def Delivers {α : Type} (D : α → State → Prop) (r : Except ErrKind α) (t : State) : Prop :=
  match r with
  | .error e => t.status = .error ∧ t.err = e
  | .ok d => D d t

/-- From `s` the command in progress ends, with outcome `r`. -/
def EndsWith {α : Type} (D : α → State → Prop) (r : Except ErrKind α) (s : State) : Prop :=
  ∃ n t, runSteps n s = .next t ∧ t.status ≠ .busy ∧ Delivers D r t

/-- A command in progress that no host access disturbs: what all engine steps but the last keep. -/
structure Alone (s : State) : Prop where
  status : s.status = .busy
  err : s.err = .none
  host : s.host = []

theorem step_of_alone {s : State} (h : Alone s) : step s = engineStep s := by
  unfold step machineStep
  rw [h.host]

section
variable {α : Type} {D : α → State → Prop} {s t : State} {r : Except ErrKind α}

theorem EndsWith.of_step (hs : Alone s) (h : engineStep s = .next t) (ht : EndsWith D r t) : EndsWith D r s := by
  obtain ⟨n, u, hrun, hu⟩ := ht
  exact ⟨n + 1, u, by rw [runSteps, step_of_alone hs, h]; exact hrun, hu⟩

theorem EndsWith.of_here (hb : t.status ≠ .busy) (h : Delivers D r t) : EndsWith D r t := ⟨0, t, rfl, hb, h⟩

/-- The step raises an error, which is the outcome. -/
theorem EndsWith.of_raise {e : ErrKind} (hs : Alone s) (h : engineStep s = .next (raise e s)) : EndsWith D (.error e) s :=
  .of_step hs h (.of_here (by simp) ⟨rfl, rfl⟩)

/-- The step completes the command. -/
theorem EndsWith.of_done {d : α} (hs : Alone s) (h : engineStep s = .next t) (hb : t.status ≠ .busy) (hd : D d t) :
    EndsWith D (.ok d) s :=
  .of_step hs h (.of_here hb hd)

end

/-! ### Ranges that grow, and ranges below a limit -/

section
variable {α : Type} {m : Memory α} {n : Nat} {xs : List α}

/-- Values written right behind a range that was read make it longer. -/
theorem Memory.readRange_append_writeRange (h : m.readRange 0 n = some xs) (ys : List α) :
    (m.writeRange n ys).readRange 0 (n + ys.length) = some (xs ++ ys) := by
  obtain ⟨hl, hr⟩ := (Memory.readRange_eq_some _ _ _ _).1 h
  refine (Memory.readRange_eq_some _ _ _ _).2 ⟨by simp [hl], fun i hi => ?_⟩
  rw [Memory.read_writeRange, Nat.zero_add]
  by_cases hin : i < n
  · rw [if_neg (by omega), List.getElem?_append_left (by omega), ← hr i hin, Nat.zero_add]
  · rw [if_pos (by omega), List.getElem?_append_right (by omega), hl]

/-- A cell of a range that was read. -/
theorem Memory.read_of_readRange (h : m.readRange 0 n = some xs) {i : Nat} {x : α} (hx : xs[i]? = some x) :
    m.read i = some x := by
  have hi := (List.getElem?_eq_some_iff.1 hx).1
  have hread := Memory.readRange_getElem h (i := i) (by rw [← Memory.readRange_length h]; exact hi)
  rw [Nat.zero_add] at hread
  exact hread.trans hx

/-- What was read below the limit of a loosening stays. -/
theorem Memory.readRange_loosen (h : m.readRange 0 n = some xs) {k : Nat} (f : Nat → α) (hk : n ≤ k) :
    (m.loosen k f).readRange 0 n = some xs := by
  obtain ⟨hl, hr⟩ := (Memory.readRange_eq_some _ _ _ _).1 h
  refine (Memory.readRange_eq_some _ _ _ _).2 ⟨hl, fun i hi => ?_⟩
  rw [Memory.read_loosen_lt _ _ (by omega), hr i hi]

end

theorem getElem?_of_drop {α : Type} {xs ys : List α} {x : α} {i : Nat} (h : xs.drop i = x :: ys) : xs[i]? = some x := by
  rw [← Nat.add_zero i, ← List.getElem?_drop, h]; rfl

theorem drop_succ_of_drop {α : Type} {xs ys : List α} {x : α} {i : Nat} (h : xs.drop i = x :: ys) :
    xs.drop (i + 1) = ys := by
  rw [← List.drop_drop, h]; rfl

end Sys2Proof.Machine
end

section
/-! The stream decoders of the function level, one record at a time. -/

namespace Sys2Proof.Machine

/-! ### The stream decoders, record by record -/

/-- A pixel stream read record by record: the shape that the machine's steps give all stream decoders (R221 to R228). -/
def decodeRecords (kind : RecordKind) (pal : List Pixel) : (fuel : Nat) → (prev : Pixel) → (n : Nat) → List Byte →
    Except ErrKind (List Pixel)
  | fuel, prev, n, S =>
    if n = 0 then if S = [] then .ok [] else .error .pixelCountMismatch
    else
      match fuel with
      | 0 => .error .pixelCountMismatch
      | fuel + 1 =>
        match decodeRecord kind S with
        | .error _ => .error .pixelCountMismatch
        | .ok (i, rest) =>
          match recordPixels pal prev n i with
          | .error e => .error e
          | .ok ps =>
            match decodeRecords kind pal fuel (ps.getLastD prev) (n - ps.length) rest with
            | .error e => .error e
            | .ok qs => .ok (ps ++ qs)

theorem decodeRecords_zero (kind : RecordKind) (pal : List Pixel) (fuel : Nat) (prev : Pixel) (S : List Byte) :
    decodeRecords kind pal fuel prev 0 S = if S = [] then .ok [] else .error .pixelCountMismatch := by
  cases fuel <;> rfl

section
variable {kind : RecordKind} {pal : List Pixel} {fuel n : Nat} {prev : Pixel} {S rest : List Byte} {i : Instr}

/-- The stream ends inside a record. -/
theorem decodeRecords_of_short {e : Reject} (hn : 0 < n) (h : decodeRecord kind S = .error e) :
    decodeRecords kind pal fuel prev n S = .error .pixelCountMismatch := by
  cases fuel <;> simp only [decodeRecords, if_neg hn.ne', h]

theorem decodeRecords_of_error {e : ErrKind} (hn : 0 < n) (h : decodeRecord kind S = .ok (i, rest))
    (hp : recordPixels pal prev n i = .error e) : decodeRecords kind pal (fuel + 1) prev n S = .error e := by
  simp only [decodeRecords, if_neg hn.ne', h, hp]

/-- One record gives the pixels `ps`, and the stream goes on. -/
theorem decodeRecords_of_ok {ps : List Pixel} (hn : 0 < n) (h : decodeRecord kind S = .ok (i, rest))
    (hp : recordPixels pal prev n i = .ok ps) : decodeRecords kind pal (fuel + 1) prev n S =
      (decodeRecords kind pal fuel (ps.getLastD prev) (n - ps.length) rest).map (ps ++ ·) := by
  simp only [decodeRecords, if_neg hn.ne', h, hp]
  cases decodeRecords kind pal fuel (ps.getLastD prev) (n - ps.length) rest <;> rfl

end

theorem rawDec_eq (pal : List Pixel) {n fuel : Nat} (prev : Pixel) (S : List Byte) (hf : n ≤ fuel) :
    rawDec n S = decodeRecords .pix pal fuel prev n S := by
  induction n generalizing fuel prev S with
  | zero => rw [decodeRecords_zero]; cases S <;> rfl
  | succ n ih =>
    obtain ⟨fuel, rfl⟩ := Nat.exists_eq_succ_of_ne_zero (show fuel ≠ 0 by omega)
    rcases S with _ | ⟨r, _ | ⟨g, _ | ⟨b, rest⟩⟩⟩
    case cons.cons.cons =>
      rw [decodeRecords_of_ok (i := .pix r g b) n.succ_pos rfl rfl]
      simp only [rawDec, ih (fuel := fuel) ⟨r, g, b⟩ rest (by omega)]
      show _ = (decodeRecords .pix pal fuel ⟨r, g, b⟩ n rest).map ([⟨r, g, b⟩] ++ ·)
      cases decodeRecords .pix pal fuel ⟨r, g, b⟩ n rest <;> rfl
    all_goals exact (decodeRecords_of_short n.succ_pos rfl).symm

theorem idxDec_eq (pal : List Pixel) {n fuel : Nat} (prev : Pixel) (S : List Byte) (hf : n ≤ fuel) :
    idxDec pal n S = decodeRecords .idx pal fuel prev n S := by
  induction n generalizing fuel prev S with
  | zero => rw [decodeRecords_zero]; cases S <;> rfl
  | succ n ih =>
    obtain ⟨fuel, rfl⟩ := Nat.exists_eq_succ_of_ne_zero (show fuel ≠ 0 by omega)
    cases S with
    | nil => exact (decodeRecords_of_short n.succ_pos rfl).symm
    | cons x rest =>
      cases hp : lookupIn pal x.toNat with
      | error e =>
        rw [decodeRecords_of_error (i := .idx x) (e := e) n.succ_pos rfl (by simp only [recordPixels, hp]; rfl)]
        simp only [idxDec, hp]
      | ok p =>
        rw [decodeRecords_of_ok (i := .idx x) (ps := [p]) n.succ_pos rfl (by simp only [recordPixels, hp]; rfl)]
        simp only [idxDec, hp, ih (fuel := fuel) p rest (by omega)]
        show _ = (decodeRecords .idx pal fuel p n rest).map ([p] ++ ·)
        cases decodeRecords .idx pal fuel p n rest <;> rfl

/-- Both run-length decoders, from what a record of `len` bytes decodes to. -/
theorem rleDec_eq {kind : RecordKind} {len : Nat} {value : List Byte → Except ErrKind Pixel} {pal : List Pixel}
    (hshort : ∀ S : List Byte, S.length < len → decodeRecord kind S = .error .short)
    (hrec : ∀ S : List Byte, len ≤ S.length → ∃ c v i, S.take len = c :: v ∧ decodeRecord kind S = .ok (i, S.drop len) ∧
      ∀ prev n, recordPixels pal prev n i = runPixels n c (value v))
    {fuel n : Nat} (prev : Pixel) (S : List Byte) (hf : n ≤ fuel) :
    rleDec len value fuel n S = decodeRecords kind pal fuel prev n S := by
  induction fuel generalizing n prev S with
  | zero =>
    obtain rfl : n = 0 := by omega
    rw [decodeRecords_zero]; rfl
  | succ fuel ih =>
    rcases Nat.eq_zero_or_pos n with rfl | hn
    · rw [decodeRecords_zero]; rfl
    unfold rleDec
    rw [if_neg hn.ne']
    by_cases hS : S.length < len
    · rw [if_pos hS, decodeRecords_of_short hn (hshort S hS)]
    rw [if_neg hS]
    obtain ⟨c, v, i, htake, hdec, hpix⟩ := hrec S (by omega)
    rw [htake]
    dsimp only
    by_cases hc : c = 0
    · rw [if_pos hc, decodeRecords_of_error hn hdec ((hpix prev n).trans (if_pos hc))]
    have hrun := (hpix prev n).trans (if_neg hc)
    rw [if_neg hc]
    cases hv : value v with
    | error e => rw [hv] at hrun; rw [decodeRecords_of_error hn hdec hrun]
    | ok p =>
      rw [hv] at hrun
      by_cases hfit : n < c.toNat
      · rw [decodeRecords_of_error hn hdec (hrun.trans (if_pos hfit))]
        exact if_pos hfit
      · have hpos : c.toNat ≠ 0 := toNat_eq_zero.not.2 hc
        rw [decodeRecords_of_ok hn hdec (hrun.trans (if_neg hfit)), List.length_replicate]
        dsimp only
        rw [if_neg hfit, ih ((List.replicate c.toNat p).getLastD prev) (S.drop len) (by omega)]
        cases decodeRecords kind pal fuel _ (n - c.toNat) (S.drop len) <;> rfl

theorem recordPixels_block {pal : List Pixel} {prev : Pixel} {n : Nat} {i : Instr} (hi : ctxOf i = .stream .delta) :
    recordPixels pal prev n i = onePixel (blockPixel prev i) := by
  cases i
  case small | inter | bigr | bigg | bigb | new | reservedV4 => rfl
  all_goals cases hi

theorem deltaDec_eq (pal : List Pixel) {n fuel : Nat} (prev : Pixel) (S : List Byte) (hf : n ≤ fuel) :
    deltaDec prev n S = decodeRecords .delta pal fuel prev n S := by
  induction n generalizing fuel prev S with
  | zero => rw [decodeRecords_zero]; rfl
  | succ n ih =>
    obtain ⟨fuel, rfl⟩ := Nat.exists_eq_succ_of_ne_zero (show fuel ≠ 0 by omega)
    unfold deltaDec
    cases hd : decodeDelta S with
    | error e => rw [decodeRecords_of_short n.succ_pos ((decodeRecord_delta S).trans hd)]
    | ok x =>
      obtain ⟨i, rest⟩ := x
      have hdec : decodeRecord .delta S = .ok (i, rest) := (decodeRecord_delta S).trans hd
      have hpix := recordPixels_block (pal := pal) (prev := prev) (n := n + 1)
        (decode_ctx (c := .stream .delta) ((decode_stream _ _).trans hdec))
      dsimp only
      cases hp : blockPixel prev i with
      | error e => rw [decodeRecords_of_error n.succ_pos hdec (by rw [hpix, hp]; rfl)]
      | ok p =>
        rw [decodeRecords_of_ok (ps := [p]) n.succ_pos hdec (by rw [hpix, hp]; rfl)]
        dsimp only
        rw [ih (fuel := fuel) p rest (by omega)]
        show _ = (decodeRecords .delta pal fuel p n rest).map ([p] ++ ·)
        cases decodeRecords .delta pal fuel p n rest <;> rfl

theorem lookupAll_append (pal : List Pixel) (xs ys : List Nat) :
    lookupAll pal (xs ++ ys) =
      match lookupAll pal xs with
      | .error e => .error e
      | .ok ps => (lookupAll pal ys).map (ps ++ ·) := by
  induction xs with
  | nil => simp only [List.nil_append, lookupAll]; cases lookupAll pal ys <;> rfl
  | cons x xs ih =>
    simp only [List.cons_append, lookupAll, ih]
    cases lookupIn pal x with
    | error e => rfl
    | ok p =>
      cases lookupAll pal xs with
      | error e => rfl
      | ok ps => cases lookupAll pal ys <;> rfl

theorem lanesOf_length (d : Nat) (b : Byte) : (lanesOf d b).length = lanesPerByte d := by simp [lanesOf]

theorem unpack_cons (d n : Nat) (b : Byte) (S : List Byte) :
    unpack d n (b :: S) = (lanesOf d b).take n ++ unpack d (n - lanesPerByte d) S := by
  simp only [unpack, List.flatMap_cons, List.take_append, lanesOf_length]

/-- One group less is one byte less. -/
theorem ceilDiv_tail {n k m : Nat} (hk : 0 < k) (hn : 0 < n) (h : m + 1 = ceilDiv n k) : m = ceilDiv (n - k) k := by
  unfold ceilDiv at h ⊢
  rw [show n + k - 1 = n - 1 + k by omega, Nat.add_div_right _ hk] at h
  rcases Nat.lt_or_ge n k with hlt | hge
  · rw [Nat.div_eq_of_lt (by omega)] at h
    rw [Nat.div_eq_of_lt (by omega)]
    omega
  · rw [show n - k + k - 1 = n - 1 by omega]
    omega

/-- A packed byte is a record of its lanes. -/
theorem decodeRecord_pack {kind : RecordKind} {d : Nat} (hd : packDepth kind = some d) (b : Byte) (rest : List Byte) :
    ∃ i, decodeRecord kind (b :: rest) = .ok (i, rest) ∧
      ∀ pal prev n, recordPixels pal prev n i = lookupAll pal ((lanesOf d b).take n) := by
  cases kind <;> cases hd
  all_goals exact ⟨_, rfl, fun _ _ _ => rfl⟩

theorem lanesPerByte_pos {kind : RecordKind} {d : Nat} (hd : packDepth kind = some d) : 0 < lanesPerByte d := by
  cases kind <;> cases hd <;> decide

theorem packDec_eq {kind : RecordKind} {d : Nat} (hd : packDepth kind = some d) (pal : List Pixel) {n fuel : Nat}
    (prev : Pixel) (S : List Byte) (hf : n ≤ fuel) (hS : S.length = ceilDiv n (lanesPerByte d)) :
    lookupAll pal (unpack d n S) = decodeRecords kind pal fuel prev n S := by
  have hk := lanesPerByte_pos hd
  induction S generalizing fuel n prev with
  | nil =>
    obtain rfl : n = 0 := by
      have := (Nat.div_eq_zero_iff_lt hk).1 hS.symm
      omega
    rw [decodeRecords_zero]; rfl
  | cons b S ih =>
    have hn : 0 < n := by
      rcases Nat.eq_zero_or_pos n with rfl | hn
      · rw [ceilDiv, Nat.div_eq_of_lt (by omega)] at hS
        simp at hS
      · exact hn
    obtain ⟨fuel, rfl⟩ := Nat.exists_eq_succ_of_ne_zero (show fuel ≠ 0 by omega)
    obtain ⟨i, hdec, hpix⟩ := decodeRecord_pack hd b S
    have hS' : S.length = ceilDiv (n - lanesPerByte d) (lanesPerByte d) := ceilDiv_tail hk hn hS
    rw [unpack_cons, lookupAll_append]
    cases hp : lookupAll pal ((lanesOf d b).take n) with
    | error e => rw [decodeRecords_of_error hn hdec ((hpix pal prev n).trans hp)]
    | ok ps =>
      have hlen : n - ps.length = n - lanesPerByte d := by
        rw [lookupAll_length hp, List.length_take, lanesOf_length]; omega
      rw [decodeRecords_of_ok hn hdec ((hpix pal prev n).trans hp), hlen, ← ih _ (by omega) hS']

/-- Every stream decoder reads its stream record by record; a packed one where the number of bytes is right (R225). -/
theorem streamDec_eq {kind : RecordKind} {pal : List Pixel} {n : Nat} {S : List Byte}
    (hpack : ∀ d, packDepth kind = some d → S.length = ceilDiv n (lanesPerByte d)) :
    streamDec kind pal n S = decodeRecords kind pal n Pixel.black n S := by
  cases kind
  case pix => exact rawDec_eq pal _ S le_rfl
  case idx => exact idxDec_eq pal _ S le_rfl
  case delta => exact deltaDec_eq pal _ S le_rfl
  case run =>
    refine rleDec_eq (fun S hS => ?_) (fun S hS => ?_) _ S le_rfl
    · rcases S with _ | ⟨c, _ | ⟨r, _ | ⟨g, _ | ⟨b, S⟩⟩⟩⟩
      case cons.cons.cons.cons => simp at hS; omega
      all_goals rfl
    · rcases S with _ | ⟨c, _ | ⟨r, _ | ⟨g, _ | ⟨b, S⟩⟩⟩⟩
      case cons.cons.cons.cons => exact ⟨c, [r, g, b], .run c r g b, rfl, rfl, fun _ _ => rfl⟩
      all_goals simp at hS
  case runi =>
    refine rleDec_eq (fun S hS => ?_) (fun S hS => ?_) _ S le_rfl
    · rcases S with _ | ⟨c, _ | ⟨x, S⟩⟩
      case cons.cons => simp at hS
      all_goals rfl
    · rcases S with _ | ⟨c, _ | ⟨x, S⟩⟩
      case cons.cons => exact ⟨c, [x], .runi c x, rfl, rfl, fun _ _ => rfl⟩
      all_goals simp at hS
  case pack1 | pack2 | pack4 =>
    have hlen := hpack _ rfl
    simp only [streamDec, packDec, if_pos hlen]
    exact packDec_eq rfl pal _ S le_rfl hlen

/-- A packed stream of another length is refused before any index is looked up (R225). -/
theorem streamDec_of_bad_length {kind : RecordKind} {d : Nat} (hd : packDepth kind = some d) {pal : List Pixel} {n : Nat}
    {S : List Byte} (hS : S.length ≠ ceilDiv n (lanesPerByte d)) :
    streamDec kind pal n S = .error .pixelCountMismatch := by
  cases kind <;> cases hd
  all_goals exact if_neg hS

end Sys2Proof.Machine
end

section
/-! `DEC` refines the function level: the pixel stream record by record, the palette, the header. -/

namespace Sys2Proof.Machine

/-! ### The pixel stream of `DEC` -/

theorem decodeDelta_error {S : List Byte} {e : Reject} (h : decodeDelta S = .error e) : e = .short := by
  unfold decodeDelta at h
  split at h
  · cases h; rfl
  split_ifs at h
  all_goals
    split at h <;> cases h
    rfl

/-- In a pixel stream only a file that ends too soon is refused (R47, R84, R85). -/
theorem decodeRecord_error {kind : RecordKind} {S : List Byte} {e : Reject} (h : decodeRecord kind S = .error e) :
    e = .short := by
  unfold decodeRecord at h
  split at h
  case h_8 => exact decodeDelta_error h
  case h_9 => cases h; rfl
  all_goals cases h

/-- `DEC` in the pixel stream of `h`, with the file `B` in `IBUF` and the palette `pal`. -/
structure InPixels (B : List Byte) (h : Hdr) (pal : List Pixel) (s : State) : Prop where
  alone : Alone s
  job : s.job = .decStream h
  file : s.ibuf.readRange 0 s.inLen.toNat = some B
  legal : legalHdr h
  palette : PaletteIs pal s
  entries : pal.length = h.k
  within : s.work.rp ≤ B.length
  pixels : s.work.pix ≤ h.pixels

/-- A stored record leaves the decoder in the same stream. -/
theorem InPixels.storeRecord {B : List Byte} {h : Hdr} {pal ps : List Pixel} {s : State} (hs : InPixels B h pal s) {len : Nat}
    (hrp : s.work.rp + len ≤ B.length) (hpix : s.work.pix + ps.length ≤ h.pixels) (prev : Pixel) (acc : Byte)
    (accN : BitVec 4) : InPixels B h pal (storeRecord ps len prev acc accN s) where
  alone := ⟨hs.alone.status, hs.alone.err, hs.alone.host⟩
  job := hs.job
  file := hs.file
  legal := hs.legal
  palette := ⟨hs.palette.size, hs.palette.entries⟩
  entries := hs.entries
  within := hrp
  pixels := hpix

/-- What a stored record adds to the pixels. -/
theorem readRange_storeRecord {s : State} {done ps : List Pixel} (h : s.pmem.readRange 0 s.work.pix = some done) (len : Nat)
    (prev : Pixel) (acc : Byte) (accN : BitVec 4) :
    (storeRecord ps len prev acc accN s).pmem.readRange 0 (s.work.pix + ps.length) = some (done ++ ps) := by
  simpa [storeRecord] using Memory.readRange_append_writeRange h ps

/-- The run-length flag of a legal header is one bit. -/
theorem legalHdr_rle {h : Hdr} (hl : legalHdr h) : (h.rle.extractLsb' 0 1).toNat = h.rle.toNat := by
  have hbit : h.rle = 0 ∨ h.rle = 1 := by
    obtain ⟨-, -, hv⟩ := hl
    split_ifs at hv
    · exact hv.1.2.1
    · exact .inl hv.2.2.1
  rcases hbit with hr | hr <;> rw [hr] <;> rfl

theorem finishDec_delivers {B : List Byte} {h : Hdr} {pal done : List Pixel} {s : State} (hs : InPixels B h pal s)
    (hdone : s.pmem.readRange 0 h.pixels = some done) : DecDelivered ⟨h, pal, done⟩ (finishDec h s) := by
  have hk := hs.legal.2.1
  have hsize : (finishDec h s).palSize.toNat = pal.length := by
    simp only [finishDec_palSize, BitVec.toNat_ofNat, hs.entries]; omega
  refine ⟨rfl, hs.alone.err, rfl, rfl, rfl, rfl, rfl, legalHdr_rle hs.legal, hsize, ?_, ?_⟩
  · rw [finishDec_pmem]; exact Memory.readRange_loosen hdone _ le_rfl
  · rw [finishDec_pal]; exact Memory.readRange_loosen hs.palette.entries _ hs.entries.le

/-- After the last pixel the stream must be used up (R228). -/
theorem endOfPixels_ends {B : List Byte} {h : Hdr} {pal done : List Pixel} {s : State} (hs : InPixels B h pal s)
    (hpix : s.work.pix = h.pixels) (hdone : s.pmem.readRange 0 s.work.pix = some done) :
    EndsWith DecDelivered (if B.drop s.work.rp = [] then .ok ⟨h, pal, done⟩ else .error .pixelCountMismatch) s := by
  have hlen := Memory.readRange_length hs.file
  have hstep : engineStep s = settle s (endStream h s) := by
    simp only [engineStep, hs.job, decodeStep, if_neg (show ¬ s.work.pix < h.pixels by omega)]
  unfold endStream at hstep
  by_cases hend : s.work.rp = s.inLen.toNat
  · rw [if_pos (List.drop_eq_nil_of_le (by omega))]
    rw [if_pos hend] at hstep
    exact .of_done hs.alone hstep (by simp) (finishDec_delivers hs (hpix ▸ hdone))
  · rw [if_neg (by rw [List.drop_eq_nil_iff]; have := hs.within; omega)]
    rw [if_neg hend] at hstep
    exact .of_raise hs.alone hstep

theorem noPixels_end {B : List Byte} {h : Hdr} {pal done : List Pixel} {fuel : Nat} {prev : Pixel} {s : State}
    (hs : InPixels B h pal s) (hpix : s.work.pix = h.pixels) (hdone : s.pmem.readRange 0 s.work.pix = some done) :
    EndsWith DecDelivered
      ((decodeRecords h.kind pal fuel prev 0 (B.drop s.work.rp)).map fun qs => ⟨h, pal, done ++ qs⟩) s := by
  have hend := endOfPixels_ends hs hpix hdone
  rw [decodeRecords_zero]
  split_ifs at hend ⊢
  · simpa [Except.map] using hend
  · exact hend

/-- Only version 4 blocks depend on the previous pixel. -/
theorem recordPixels_prev {pal : List Pixel} {p q : Pixel} {n : Nat} {i : Instr} (h : ctxOf i ≠ .stream .delta) :
    recordPixels pal p n i = recordPixels pal q n i := by
  cases i
  case small | inter | bigr | bigg | bigb | new | reservedV4 => exact absurd rfl h
  all_goals rfl

/-- The machine's steps through a pixel stream do what `decodeRecords` does. -/
theorem pixels_end {B : List Byte} {h : Hdr} {pal : List Pixel} {fuel : Nat} {s : State} {done : List Pixel} {prev : Pixel}
    {n : Nat} {S : List Byte} (hs : InPixels B h pal s) (hdone : s.pmem.readRange 0 s.work.pix = some done)
    (hprev : h.kind = .delta → s.work.prev = prev) (hn : s.work.pix + n = h.pixels) (hfuel : n ≤ fuel)
    (hS : B.drop s.work.rp = S) :
    EndsWith DecDelivered ((decodeRecords h.kind pal fuel prev n S).map fun qs => ⟨h, pal, done ++ qs⟩) s := by
  induction fuel generalizing s done prev n S with
  | zero =>
    obtain rfl : n = 0 := by omega
    exact hS ▸ noPixels_end hs hn hdone
  | succ fuel ih =>
    rcases Nat.eq_zero_or_pos n with rfl | hpos
    · exact hS ▸ noPixels_end hs hn hdone
    have hpix : s.work.pix < h.pixels := by omega
    have hneed : h.pixels - s.work.pix = n := by omega
    have hstep : engineStep s = recordOutcome (.stream h.kind) s (decodeRecord h.kind S) := by
      simp only [engineStep, hs.job, decodeStep, if_pos hpix, runRecordAt_of_file hs.file, decode_stream, hS]
    cases hd : decodeRecord h.kind S with
    | error e =>
      rw [decodeRecords_of_short hpos hd]
      rw [hd, decodeRecord_error hd] at hstep
      exact .of_raise hs.alone hstep
    | ok x =>
      obtain ⟨i, rest⟩ := x
      have hdec : decode (.stream h.kind) S = .ok (i, rest) := (decode_stream _ _).trans hd
      have hctx := decode_ctx hdec
      obtain ⟨hrest, hfits⟩ := decode_rest hdec
      rw [hd] at hstep
      have hdoes := exec_record hs.job hctx hpix hs.palette
      have hsame : recordPixels pal s.work.prev n i = recordPixels pal prev n i := by
        by_cases hk : h.kind = .delta
        · rw [hprev hk]
        · exact recordPixels_prev (by rw [hctx]; simpa using hk)
      rw [hneed, hsame] at hdoes
      cases hp : recordPixels pal prev n i with
      | error e =>
        rw [decodeRecords_of_error hpos hd hp]
        rw [hp] at hdoes
        exact .of_raise hs.alone (hstep.trans hdoes)
      | ok ps =>
        rw [decodeRecords_of_ok hpos hd hp]
        rw [hp] at hdoes
        obtain ⟨prev', acc, accN, hexec, hdelta, -⟩ := hdoes
        obtain ⟨hps, hle⟩ := recordPixels_length hpos hp
        rw [← hS, List.length_drop] at hfits
        have hs' := hs.storeRecord (len := (encode i).length) (ps := ps) (by have := hs.within; omega) (by omega) prev' acc accN
        have hnext := ih hs' (readRange_storeRecord hdone _ _ _ _) (prev := ps.getLastD prev) (n := n - ps.length) (S := rest)
          (fun hk => by rw [hdelta hk]; rfl) (by show s.work.pix + ps.length + _ = _; omega) (by omega)
          (by rw [hrest, ← hS, List.drop_drop]; rfl)
        refine .of_step hs.alone (hstep.trans hexec) ?_
        cases hrec : decodeRecords h.kind pal fuel (ps.getLastD prev) (n - ps.length) rest with
        | error e => rw [hrec] at hnext; exact hnext
        | ok qs => rw [hrec] at hnext; simpa [Except.map] using hnext

/-! ### The header of `DEC` -/

/-- What `DECODE` does after `ParseHeader` (R230, R231). -/
def decodeBody (caps : Caps) (B : List Byte) (h : Hdr) (pal : List Pixel) : Except ErrKind Decoded :=
  if !fits h.pixels caps.pmem then .error .bufferOverflow
  else (streamDec h.kind pal h.pixels (B.drop h.headerLen.toNat)).map fun px => ⟨h, pal, px⟩

theorem decodeWithin_of_header {caps : Caps} {B : List Byte} {h : Hdr} {pal : List Pixel}
    (hfit : fits B.length caps.ibuf = true) (hp : parseHeader B = .ok (h, pal)) :
    decodeWithin caps B = decodeBody caps B h pal := by
  unfold decodeWithin decodeBody
  rw [if_neg (by simp [hfit]), hp]
  dsimp only
  split_ifs
  · rfl
  · cases streamDec h.kind pal h.pixels (B.drop h.headerLen.toNat) <;> rfl

theorem decodeWithin_of_header_error {caps : Caps} {B : List Byte} {e : ErrKind}
    (hfit : fits B.length caps.ibuf = true) (hp : parseHeader B = .error e) : decodeWithin caps B = .error e := by
  unfold decodeWithin
  rw [if_neg (by simp [hfit]), hp]

/-- `DEC` at the first stream byte, where the header's palette is loaded and no pixel is decoded yet. -/
structure AtStream (B : List Byte) (h : Hdr) (pal : List Pixel) (t : State) : Prop where
  alone : Alone t
  file : t.ibuf.readRange 0 t.inLen.toNat = some B
  legal : legalHdr h
  palette : PaletteIs pal t
  entries : pal.length = h.k
  atEnd : t.work.rp = h.headerLen.toNat
  within : h.headerLen.toNat ≤ B.length
  pix : t.work.pix = 0
  prev : t.work.prev = Pixel.black

/-- A step that enters the pixel stream leads to what `DECODE` does after the header. -/
theorem beginStream_ends {B : List Byte} {h : Hdr} {pal : List Pixel} {s t : State} (hs : Alone s)
    (ht : AtStream B h pal t) (hstep : engineStep s = settle s (beginStream h t)) :
    EndsWith DecDelivered (decodeBody t.caps B h pal) s := by
  have hlen := Memory.readRange_length ht.file
  have hS : (B.drop h.headerLen.toNat).length = t.inLen.toNat - t.work.rp := by rw [List.length_drop, hlen, ht.atEnd]
  unfold beginStream at hstep
  unfold decodeBody
  by_cases hfit : fits h.pixels t.caps.pmem = true
  case neg =>
    rw [if_pos (by simpa using hfit)] at hstep ⊢
    exact .of_raise hs hstep
  rw [if_neg (by simp [hfit])] at hstep ⊢
  by_cases hbad : ∃ d, packDepth h.kind = some d ∧ t.inLen.toNat - t.work.rp ≠ ceilDiv h.pixels (lanesPerByte d)
  · obtain ⟨d, hd, hne⟩ := hbad
    rw [streamDec_of_bad_length hd (by rwa [hS])]
    simp only [hd, if_neg hne] at hstep
    exact .of_raise hs hstep
  have hok : ∀ d, packDepth h.kind = some d → t.inLen.toNat - t.work.rp = ceilDiv h.pixels (lanesPerByte d) :=
    fun d hd => not_not.1 fun hne => hbad ⟨d, hd, hne⟩
  have hnext : engineStep s = .next (setJob (.decStream h) t) := by
    rw [hstep]
    split
    · rename_i d hd
      rw [if_pos (hok d hd)]; rfl
    · rfl
  rw [streamDec_eq fun d hd => hS.trans (hok d hd)]
  have hin : InPixels B h pal (setJob (.decStream h) t) :=
    { alone := ⟨ht.alone.status, ht.alone.err, ht.alone.host⟩, job := rfl, file := ht.file, legal := ht.legal
      palette := ⟨ht.palette.size, ht.palette.entries⟩, entries := ht.entries
      within := by rw [setJob_work, ht.atEnd]; exact ht.within
      pixels := by rw [setJob_work, ht.pix]; exact Nat.zero_le _ }
  refine .of_step hs hnext ?_
  simpa using pixels_end hin (done := []) (by simp [ht.pix]) (fun _ => ht.prev) (by simp [ht.pix]) le_rfl
    (by rw [setJob_work, ht.atEnd])

/-- The first `k` palette entries of a version 3 file (R62, R216). -/
def filePalette (B : List Byte) (k : Nat) : List Pixel := (pixelsOf (B.drop 14)).take k

theorem pixelsOf_length (L : List Byte) : (pixelsOf L).length = L.length / 3 := by
  induction L using pixelsOf.induct with
  | case1 r g b rest ih => simp only [pixelsOf, List.length_cons, ih]; omega
  | case2 L hne =>
    rcases L with _ | ⟨r, _ | ⟨g, _ | ⟨b, rest⟩⟩⟩
    case cons.cons.cons => exact absurd rfl (hne r g b rest)
    all_goals simp [pixelsOf]

theorem pixelsOf_getElem {L t : List Byte} {r g b : Byte} {i : Nat} (h : L.drop (3 * i) = r :: g :: b :: t) :
    (pixelsOf L)[i]? = some ⟨r, g, b⟩ := by
  induction i generalizing L with
  | zero => simp only [Nat.mul_zero, List.drop_zero] at h; rw [h]; rfl
  | succ i ih =>
    rcases L with _ | ⟨r', _ | ⟨g', _ | ⟨b', L⟩⟩⟩
    case cons.cons.cons => exact ih (L := L) (by simpa [Nat.mul_succ] using h)
    all_goals simp [Nat.mul_succ] at h

theorem filePalette_length {B : List Byte} {k : Nat} (h : 14 + 3 * k ≤ B.length) : (filePalette B k).length = k := by
  rw [filePalette, List.length_take, pixelsOf_length, List.length_drop]
  omega

/-- `DEC` before palette entry `i` of the header (R216). -/
structure InPalette (B : List Byte) (h : Hdr) (i : Nat) (s : State) : Prop where
  alone : Alone s
  job : s.job = .decPalette h i
  file : s.ibuf.readRange 0 s.inLen.toNat = some B
  legal : legalHdr h
  more : i < h.k
  rp : s.work.rp = 14 + 3 * i
  headerLen : h.headerLen.toNat = 14 + 3 * h.k
  within : h.headerLen.toNat ≤ B.length
  pix : s.work.pix = 0
  prev : s.work.prev = Pixel.black
  size : s.palSize.toNat = h.k
  loaded : s.pal.readRange 0 i = some ((filePalette B h.k).take i)

/-- One palette line is read and becomes entry `i`. -/
theorem InPalette.entry {B : List Byte} {h : Hdr} {i : Nat} {s : State} (hs : InPalette B h i s) :
    ∃ p, engineStep s = settle s (loadEntry h i p s) ∧
      (s.pal.write i p).readRange 0 (i + 1) = some ((filePalette B h.k).take (i + 1)) := by
  obtain ⟨r, g, b, rest, hrest⟩ : ∃ r g b rest, B.drop (14 + 3 * i) = r :: g :: b :: rest := by
    have h3 : 3 ≤ (B.drop (14 + 3 * i)).length := by
      have := hs.more; have := hs.headerLen; have := hs.within
      rw [List.length_drop]; omega
    generalize B.drop (14 + 3 * i) = L at h3
    rcases L with _ | ⟨r, _ | ⟨g, _ | ⟨b, rest⟩⟩⟩
    case cons.cons.cons => exact ⟨r, g, b, rest, rfl⟩
    all_goals simp at h3
  have hentry : (filePalette B h.k)[i]? = some ⟨r, g, b⟩ := by
    rw [filePalette, List.getElem?_take, if_pos hs.more]
    exact pixelsOf_getElem (by rw [List.drop_drop]; exact hrest)
  refine ⟨⟨r, g, b⟩, ?_, ?_⟩
  · simp only [engineStep, hs.job, runRecordAt_of_file hs.file, hs.rp, hrest]
    simp only [decode, recordOutcome, exec, execPal, hs.job]
  · rw [List.take_add_one, hentry]
    exact Memory.readRange_append_writeRange hs.loaded [⟨r, g, b⟩]

/-- The state with entry `i` loaded. -/
theorem InPalette.rp_next {B : List Byte} {h : Hdr} {i : Nat} {s : State} (hs : InPalette B h i s) (p : Pixel) :
    (skipBytes 3 (writePal i p s)).work.rp = 14 + 3 * (i + 1) := by
  simp only [skipBytes_work, writePal_work, hs.rp]
  omega

/-- The palette entries still to come are loaded, and the stream begins. -/
theorem palette_ends {B : List Byte} {h : Hdr} {m i : Nat} {s : State} (hs : InPalette B h i s) (hm : i + 1 + m = h.k) :
    EndsWith DecDelivered (decodeBody s.caps B h (filePalette B h.k)) s := by
  have hlen := hs.headerLen
  have hsize := filePalette_length (B := B) (k := h.k) (by have := hs.within; omega)
  induction m generalizing i s with
  | zero =>
    obtain ⟨p, hstep, hloaded⟩ := hs.entry
    have hk : i + 1 = h.k := hm
    unfold loadEntry at hstep
    rw [if_neg (by omega)] at hstep
    rw [hk, List.take_of_length_le hsize.le] at hloaded
    refine beginStream_ends (t := skipBytes 3 (writePal i p s)) hs.alone ?_ hstep
    exact
      { alone := ⟨hs.alone.status, hs.alone.err, hs.alone.host⟩, file := hs.file, legal := hs.legal
        palette := ⟨by rw [hsize]; exact hs.size, by rw [hsize]; exact hloaded⟩
        entries := hsize
        atEnd := by rw [hs.rp_next, hk, hlen]
        within := hs.within, pix := hs.pix, prev := hs.prev }
  | succ m ih =>
    obtain ⟨p, hstep, hloaded⟩ := hs.entry
    unfold loadEntry at hstep
    rw [if_pos (by omega)] at hstep
    have hs' : InPalette B h (i + 1) (setJob (.decPalette h (i + 1)) (skipBytes 3 (writePal i p s))) :=
      { alone := ⟨hs.alone.status, hs.alone.err, hs.alone.host⟩, job := rfl, file := hs.file, legal := hs.legal
        more := by omega, rp := hs.rp_next p, headerLen := hlen, within := hs.within, pix := hs.pix, prev := hs.prev
        size := hs.size, loaded := hloaded }
    exact .of_step hs.alone hstep (ih hs' (by omega))

/-- The first header format is that of versions 1, 2 and 4 (R211). -/
theorem decodeHeader_version {S rest : List Byte} {v : Byte} {w h : Half} (hd : decodeHeader S = .ok (.hdr12 v w h, rest)) :
    v = 1 ∨ v = 2 ∨ v = 4 := by
  unfold decodeHeader at hd
  split at hd
  · split_ifs at hd with _ hv
    · split at hd
      · split_ifs at hd
        cases hd; exact hv
      · cases hd
    · split at hd <;> cases hd
  · cases hd

/-- `parse12` on a header the decoder accepted. -/
theorem plainHeader_ends {s : State} {B rest : List Byte} {v : Byte} {w h : Half} (hs : Alone s)
    (hB : s.ibuf.readRange 0 s.inLen.toNat = some B) (hfit : fits B.length s.caps.ibuf = true) (hrp : s.work.rp = 0)
    (hpix : s.work.pix = 0) (hprev : s.work.prev = Pixel.black) (hd : decodeHeader B = .ok (.hdr12 v w h, rest))
    (hstep : engineStep s = settle s (parse12 v w h s)) : EndsWith DecDelivered (decodeWithin s.caps B) s := by
  have hlen := Memory.readRange_length hB
  have hle := (decode_rest (c := .header) ((decode_header B).trans hd)).2
  rw [encode_hdr12_length] at hle
  have hv := decodeHeader_version hd
  unfold parse12 at hstep
  rw [if_neg (by rw [not_or, not_not]; exact ⟨hv, by omega⟩)] at hstep
  cases hk : streamKind v 0 0 with
  | none =>
    rw [hk] at hstep
    rw [decodeWithin_of_header_error hfit (e := .formatError) (by simp only [parseHeader, hd, hk])]
    exact .of_raise hs hstep
  | some kind =>
    rw [hk] at hstep
    rw [decodeWithin_of_header (h := plainHdr v w h kind) (pal := []) hfit (by simp only [parseHeader, hd, hk]; rfl)]
    refine beginStream_ends (t := skipBytes 12 (setPalSize 0 s)) hs ?_ hstep
    exact
      { alone := ⟨hs.status, hs.err, hs.host⟩, file := hB, legal := legalHdr_plainHdr hv hk
        palette := ⟨rfl, rfl⟩, entries := rfl
        atEnd := by simp only [skipBytes_work, setPalSize_work, hrp]; rfl
        within := hle, pix := hpix, prev := hprev }

/-- `parse3` on a header the decoder accepted. -/
theorem version3Header_ends {s : State} {B rest : List Byte} {hl w h : Half} {d f : Byte} (hs : Alone s)
    (hB : s.ibuf.readRange 0 s.inLen.toNat = some B) (hfit : fits B.length s.caps.ibuf = true)
    (hrp : s.work.rp = 0) (hpix : s.work.pix = 0) (hprev : s.work.prev = Pixel.black)
    (hd : decodeHeader B = .ok (.hdr3 hl w h d f, rest)) (hstep : engineStep s = settle s (parse3 hl w h d f s)) :
    EndsWith DecDelivered (decodeWithin s.caps B) s := by
  have hlen := Memory.readRange_length hB
  obtain ⟨hrest, -⟩ := decode_rest (c := .header) ((decode_header B).trans hd)
  rw [encode_hdr3_length] at hrest
  unfold parse3 at hstep
  rw [← hlen] at hstep
  by_cases hbad : ¬ legalHdr3 hl.toNat d f ∨ B.length < hl.toNat
  · rw [if_pos hbad] at hstep
    rw [decodeWithin_of_header_error hfit (e := .formatError) (by simp only [parseHeader, hd, if_pos hbad])]
    exact .of_raise hs hstep
  rw [if_neg hbad] at hstep
  obtain ⟨hlegal, hin⟩ := not_or.1 hbad
  rw [not_not] at hlegal
  obtain ⟨hhl, -, hk256⟩ := legalHdr3_entries hlegal
  cases hk : streamKind 3 d f with
  | none =>
    rw [hk] at hstep
    rw [decodeWithin_of_header_error hfit (e := .formatError) (by simp only [parseHeader, hd, if_neg hbad, hk])]
    exact .of_raise hs hstep
  | some kind =>
    rw [hk] at hstep
    dsimp only at hstep
    have hlegal' : legalHdr (version3Hdr hl w h d f kind) := legalHdr_version3Hdr hlegal hk
    have hsize : (setPalSize (paletteEntries hl d) s).palSize.toNat = paletteEntries hl d := by
      simp only [setPalSize_palSize, BitVec.toNat_ofNat]; omega
    have hpal := filePalette_length (B := B) (k := paletteEntries hl d) (by omega)
    rw [decodeWithin_of_header (h := version3Hdr hl w h d f kind) (pal := filePalette B (paletteEntries hl d)) hfit
      (by simp only [parseHeader, hd, if_neg hbad, hk, hrest]; rfl)]
    by_cases hk0 : paletteEntries hl d = 0
    · rw [if_pos hk0] at hstep
      refine beginStream_ends (t := skipBytes 14 (setPalSize (paletteEntries hl d) s)) hs ?_ hstep
      exact
        { alone := ⟨hs.status, hs.err, hs.host⟩, file := hB, legal := hlegal'
          palette := ⟨by rw [hpal]; exact hsize, by rw [List.eq_nil_of_length_eq_zero (hpal.trans hk0)]; rfl⟩
          entries := hpal
          atEnd := by
            show s.work.rp + 14 = hl.toNat
            omega
          within := not_lt.1 hin, pix := hpix, prev := hprev }
    · rw [if_neg hk0] at hstep
      have hs' : InPalette B (version3Hdr hl w h d f kind) 0
          (setJob (.decPalette (version3Hdr hl w h d f kind) 0) (skipBytes 14 (setPalSize (paletteEntries hl d) s))) :=
        { alone := ⟨hs.status, hs.err, hs.host⟩, job := rfl, file := hB, legal := hlegal'
          more := Nat.pos_of_ne_zero hk0
          rp := by simp only [setJob_work, skipBytes_work, setPalSize_work, hrp]
          headerLen := hhl, within := not_lt.1 hin, pix := hpix, prev := hprev, size := hsize, loaded := rfl }
      exact .of_step hs hstep (palette_ends hs' (m := paletteEntries hl d - 1)
        (by show 0 + 1 + _ = paletteEntries hl d; omega))

/-- Every file that `DEC` reads ends with the outcome of `DECODE`. -/
theorem header_ends {s : State} {B : List Byte} (hs : Alone s) (hj : s.job = .decHeader)
    (hB : s.ibuf.readRange 0 s.inLen.toNat = some B) (hfit : fits s.inLen.toNat s.caps.ibuf = true) (hrp : s.work.rp = 0)
    (hpix : s.work.pix = 0) (hprev : s.work.prev = Pixel.black) :
    EndsWith DecDelivered (decodeWithin s.caps B) s := by
  have hlen := Memory.readRange_length hB
  have hfitB : fits B.length s.caps.ibuf = true := by rwa [hlen]
  have hstep : engineStep s = recordOutcome .header s (decodeHeader B) := by
    simp only [engineStep, hj, headerParseStep, if_pos hfit, runRecordAt_of_file hB, hrp, List.drop_zero, decode_header]
  cases hd : decodeHeader B with
  | error e =>
    rw [decodeWithin_of_header_error hfitB (e := .formatError) (by simp only [parseHeader, hd])]
    refine .of_raise hs ?_
    rw [hstep, hd]
    cases e <;> rfl
  | ok x =>
    obtain ⟨i, rest⟩ := x
    rw [hd] at hstep
    have hctx := decode_ctx (c := .header) ((decode_header B).trans hd)
    cases i
    case hdr12 v w h =>
      refine plainHeader_ends hs hB hfitB hrp hpix hprev hd (hstep.trans ?_)
      simp only [recordOutcome, exec, execHdr12, hj]
    case hdr3 hl w h d f =>
      refine version3Header_ends hs hB hfitB hrp hpix hprev hd (hstep.trans ?_)
      simp only [recordOutcome, exec, execHdr3, hj]
    all_goals cases hctx

/-- From its start, `DEC` ends with the outcome of the function level. -/
theorem dec_ends {s : State} {B : List Byte} (hh : s.host = [])
    (hB : fits s.inLen.toNat s.caps.ibuf = true → s.ibuf.readRange 0 s.inLen.toNat = some B) :
    EndsWith DecDelivered
      (if fits s.inLen.toNat s.caps.ibuf then decodeWithin s.caps B else .error .bufferOverflow)
      (startCommand .decHeader s) := by
  have halone : Alone (startCommand .decHeader s) := ⟨rfl, rfl, hh⟩
  by_cases hfit : fits s.inLen.toNat s.caps.ibuf = true
  · rw [if_pos hfit]
    exact header_ends halone rfl (hB hfit) hfit rfl rfl rfl
  · rw [if_neg hfit]
    exact .of_raise halone (if_neg hfit)

/-- Settles O56: the header's steps do what `ParseHeader` does, and the records' what the stream decoders do. -/
theorem decRefines : Obligations.DecRefines := by
  intro s u B hb hh hB hu
  have hstart : exec .dec s = .next (startCommand .decHeader s) := if_neg hb
  cases hu.symm.trans hstart
  obtain ⟨n, t, hrun, hend, hdel⟩ := dec_ends hh hB
  refine ⟨n, t, hrun, hend, ?_⟩
  generalize (if fits s.inLen.toNat s.caps.ibuf then decodeWithin s.caps B else .error .bufferOverflow) = r at hdel ⊢
  cases r <;> exact hdel

end Sys2Proof.Machine
end

section
/-! The stream encoders of the function level, one pixel at a time. -/

namespace Sys2Proof.Machine

/-! ### Run-length records with a run open -/

/-- `RleEnc` (R160) with a run of `n` symbols `v` open, or none where `n` is 0. -/
def openRuns {α : Type} [DecidableEq α] (v : α) (n : Nat) (ss : List α) : List (Nat × α) :=
  if n = 0 then rleEnc ss else rleFrom v n ss

/-- The bytes of a `RUN` record (R162). -/
def runRecordBytes (x : Nat × Pixel) : List Byte := byteOf x.1 :: pixelBytes x.2

/-- The bytes of a `RUNI` record (R162). -/
def runiRecordBytes (x : Nat × Nat) : List Byte := [byteOf x.1, byteOf x.2]

@[simp] theorem byteOf_toNat_self (b : Byte) : byteOf b.toNat = b := by simp [byteOf]

theorem openRuns_zero {α : Type} [DecidableEq α] (v : α) (ss : List α) : openRuns v 0 ss = rleEnc ss := rfl

section
variable {α : Type} [DecidableEq α] {val : Pixel → α} {f : Nat × α → List Byte} {kind : RecordKind} {w : Work}

/-- At the end of the stream the open run is all that is left. -/
theorem openRuns_nil (hbytes : runBytes kind w.runCnt w.runVal = f (w.runCnt.toNat, val w.runVal)) :
    (openRuns (val w.runVal) w.runCnt.toNat []).flatMap f = openRunBytes kind w := by
  unfold openRuns openRunBytes
  by_cases h0 : w.runCnt = 0
  · rw [if_pos h0, if_pos (toNat_eq_zero.2 h0)]; rfl
  · rw [if_neg h0, if_neg (toNat_eq_zero.not.2 h0), hbytes]
    simp [rleFrom]

/-- One symbol: the machine's registers follow `RleEnc`, whatever the symbols are. -/
theorem openRuns_cons {same : Bool} {sym : Pixel} (hsame : same = true ↔ val sym = val w.runVal)
    (hbytes : runBytes kind w.runCnt w.runVal = f (w.runCnt.toNat, val w.runVal)) (ss : List α) :
    (openRuns (val w.runVal) w.runCnt.toNat (val sym :: ss)).flatMap f =
      runOutput kind same w ++
        (openRuns (val (runWork same sym w).runVal) (runWork same sym w).runCnt.toNat ss).flatMap f := by
  have hcnt : w.runCnt = 0 ↔ w.runCnt.toNat = 0 := toNat_eq_zero.symm
  unfold runOutput runWork openRunBytes
  by_cases hgo : runGoesOn same w
  · obtain ⟨h0, hs, h255⟩ := hgo
    have hsucc : (w.runCnt + 1).toNat = w.runCnt.toNat + 1 := by
      have hone : (1 : BitVec 8).toNat = 1 := rfl
      rw [BitVec.toNat_add, hone]; omega
    rw [if_pos ⟨h0, hs, h255⟩, if_pos ⟨h0, hs, h255⟩]
    simp only [hsucc, List.nil_append, openRuns, if_neg (hcnt.not.1 h0), if_neg (Nat.succ_ne_zero _), rleFrom]
    rw [if_pos ⟨hsame.1 hs, h255⟩]
  · rw [if_neg hgo, if_neg hgo]
    have hnew : openRuns (val sym) (1 : BitVec 8).toNat ss = rleFrom (val sym) 1 ss := if_neg (by decide)
    by_cases h0 : w.runCnt = 0
    · rw [if_pos h0, hcnt.1 h0, openRuns_zero]
      exact congrArg (List.flatMap f) hnew.symm
    · rw [if_neg h0, hbytes]
      have hstop : ¬ (val sym = val w.runVal ∧ w.runCnt.toNat < 255) := fun h => hgo ⟨h0, hsame.2 h.1, h.2⟩
      simp only [openRuns, if_neg (hcnt.not.1 h0), rleFrom, if_neg hstop, List.flatMap_cons]
      exact congrArg (f _ ++ List.flatMap f ·) hnew.symm

end

/-! ### The Bit Packer with a byte begun -/

/-- The packed bytes still to come where `ACC` is `acc` and `n` lanes of it are filled (R122). -/
def packFrom (d : Nat) (acc : Byte) (n : Nat) : List Nat → List Byte
  | [] => if n = 0 then [] else [acc]
  | i :: is =>
    let acc' := byteOf (acc.toNat + i * 2 ^ (8 - d * (n + 1)))
    if n + 1 = lanesPerByte d then acc' :: packFrom d 0 0 is else packFrom d acc' (n + 1) is

/-- The lanes `n`, `n + 1`, ... of a packed byte (R120). -/
def laneSum (d n : Nat) (lanes : List Nat) : Nat := ((lanes.zipIdx n).map fun x => x.1 * 2 ^ (8 - d * (x.2 + 1))).sum

theorem laneSum_cons (d n i : Nat) (is : List Nat) :
    laneSum d n (i :: is) = i * 2 ^ (8 - d * (n + 1)) + laneSum d (n + 1) is := by
  simp [laneSum]

theorem byteOf_toNat_add (a x : Nat) : byteOf ((byteOf a).toNat + x) = byteOf (a + x) := by
  apply BitVec.eq_of_toNat_eq
  simp [byteOf]

/-- Lane by lane, the Bit Packer fills the byte that `Pack` makes of the next group. -/
theorem packFrom_group {d : Nat} (idx : List Nat) {a n : Nat} (hn : n < lanesPerByte d) (h : idx ≠ [] ∨ n ≠ 0) :
    packFrom d (byteOf a) n idx =
      byteOf (a + laneSum d n (idx.take (lanesPerByte d - n))) :: packFrom d 0 0 (idx.drop (lanesPerByte d - n)) := by
  induction idx generalizing a n with
  | nil =>
    have hn0 : n ≠ 0 := h.resolve_left (by simp)
    simp [packFrom, hn0, laneSum]
  | cons i is ih =>
    obtain ⟨m, hm⟩ := Nat.exists_eq_add_of_lt hn
    have hsub : lanesPerByte d - n = m + 1 := by omega
    simp only [packFrom, byteOf_toNat_add, hsub, List.take_succ_cons, List.drop_succ_cons, laneSum_cons]
    split_ifs with hfull
    · obtain rfl : m = 0 := by omega
      simp [laneSum]
    · rw [ih (by omega) (.inr (Nat.succ_ne_zero n)), show lanesPerByte d - (n + 1) = m by omega, Nat.add_assoc]

theorem packBytes_eq {d : Nat} (hd : 0 < lanesPerByte d) {fuel : Nat} (idx : List Nat) (hf : idx.length ≤ fuel) :
    packBytes d fuel idx = packFrom d 0 0 idx := by
  induction fuel generalizing idx with
  | zero => rw [List.length_eq_zero_iff.1 (by omega : idx.length = 0)]; rfl
  | succ fuel ih =>
    cases idx with
    | nil => rfl
    | cons i is =>
      have hgroup := packFrom_group (a := 0) (i :: is) hd (.inl (by simp))
      rw [Nat.zero_add, Nat.sub_zero] at hgroup
      have hdrop : ((i :: is).drop (lanesPerByte d)).length ≤ fuel := by
        simp only [List.length_drop, List.length_cons] at hf ⊢; omega
      calc packBytes d (fuel + 1) (i :: is)
          = byteOf (packByte d ((i :: is).take (lanesPerByte d))) ::
              packBytes d fuel ((i :: is).drop (lanesPerByte d)) := rfl
        _ = packFrom d (byteOf 0) 0 (i :: is) := by rw [ih _ hdrop, hgroup]; rfl

/-! ### The bytes still to come -/

/-- The bytes that the stream encoder will bring out for the pixels `px`, from working registers `w`. -/
def pendingBytes (kind : RecordKind) (pal : List Pixel) (w : Work) (px : List Pixel) : List Byte :=
  match kind with
  | .pix => px.flatMap pixelBytes
  | .run => (openRuns w.runVal w.runCnt.toNat px).flatMap runRecordBytes
  | .idx => px.map fun p => byteOf (indexIn pal p)
  | .runi => (openRuns w.runVal.b.toNat w.runCnt.toNat (px.map (indexIn pal))).flatMap runiRecordBytes
  | .pack1 => packFrom 1 w.acc w.accN.toNat (px.map (indexIn pal))
  | .pack2 => packFrom 2 w.acc w.accN.toNat (px.map (indexIn pal))
  | .pack4 => packFrom 4 w.acc w.accN.toNat (px.map (indexIn pal))
  | .delta => deltaEnc w.prev px

/-- Before the first pixel they are the stream of the function level. -/
theorem pendingBytes_fresh {kind : RecordKind} {pal px : List Pixel} {w : Work} (hcnt : w.runCnt = 0) (hacc : w.acc = 0)
    (hn : w.accN = 0) (hprev : w.prev = Pixel.black) : pendingBytes kind pal w px = streamEnc kind pal px := by
  have hpack : ∀ d, 0 < lanesPerByte d →
      packFrom d w.acc w.accN.toNat (px.map (indexIn pal)) = pack d (px.map (indexIn pal)) := by
    intro d hd
    rw [hacc, hn]
    exact (packBytes_eq hd _ le_rfl).symm
  cases kind
  case pix | idx => rfl
  case run | runi => simp only [pendingBytes, hcnt]; rfl
  case pack1 | pack2 | pack4 => exact hpack _ (by decide)
  case delta => simp only [pendingBytes, hprev]; rfl

/-- The cursors play no part. -/
theorem pendingBytes_cursors (kind : RecordKind) (pal px : List Pixel) (w : Work) (rp wp pix : Nat) :
    pendingBytes kind pal { w with rp := rp, wp := wp, pix := pix } px = pendingBytes kind pal w px := by
  cases kind <;> rfl

theorem runBytes_run (w : Work) : runBytes .run w.runCnt w.runVal = runRecordBytes (w.runCnt.toNat, id w.runVal) := by
  simp [runBytes, encode, runRecordBytes, pixelBytes]

theorem runBytes_runi (w : Work) :
    runBytes .runi w.runCnt w.runVal = runiRecordBytes (w.runCnt.toNat, w.runVal.b.toNat) := by
  simp [runBytes, encode, runiRecordBytes]

/-- After the last pixel, what the flush brings out is left (R122, R160). -/
theorem pendingBytes_nil (kind : RecordKind) (pal : List Pixel) (w : Work) :
    pendingBytes kind pal w [] = flushOutput kind w := by
  have hpack : ∀ d, packFrom d w.acc w.accN.toNat [] = if w.accN = 0 then [] else [w.acc] := by
    intro d
    simp only [packFrom]
    by_cases h0 : w.accN = 0
    · rw [if_pos h0, if_pos (toNat_eq_zero.2 h0)]
    · rw [if_neg h0, if_neg (toNat_eq_zero.not.2 h0)]
  cases kind
  case pix | idx | delta => rfl
  case run => exact openRuns_nil (val := id) (runBytes_run w)
  case runi => exact openRuns_nil (val := fun v : Pixel => v.b.toNat) (runBytes_runi w)
  case pack1 => exact hpack 1
  case pack2 => exact hpack 2
  case pack4 => exact hpack 4

theorem packFrom_cons {d j : Nat} {w : Work} (hn : w.accN.toNat < lanesPerByte d) (h8 : lanesPerByte d ≤ 8) (js : List Nat) :
    packFrom d w.acc w.accN.toNat (j :: js) =
      packOutput d j w ++ packFrom d (packWork d j w).acc (packWork d j w).accN.toNat js := by
  unfold packOutput packWork packedAcc
  simp only [packFrom]
  split_ifs
  · rfl
  · have hone : (1 : BitVec 4).toNat = 1 := rfl
    have hsucc : (w.accN + 1).toNat = w.accN.toNat + 1 := by rw [BitVec.toNat_add, hone]; omega
    simp only [hsucc, List.nil_append]

/-- One pixel: what it brings out comes first, the rest follows from the registers it leaves (R185 to R191). -/
theorem pendingBytes_cons {kind : RecordKind} {pal : List Pixel} {w : Work} {p : Pixel} (px : List Pixel)
    (hj : indexed kind = true → indexIn pal p < 256)
    (hn : ∀ d, packDepth kind = some d → w.accN.toNat < lanesPerByte d) :
    pendingBytes kind pal w (p :: px) =
      pixelOutput kind (indexIn pal p) p w ++ pendingBytes kind pal (pixelWork kind (indexIn pal p) p w) px := by
  cases kind
  case pix | idx | delta => rfl
  case run =>
    exact openRuns_cons (val := id) (same := decide (p = w.runVal)) (sym := p) (by simp) (runBytes_run w) px
  case runi =>
    have hval : (indexSymbol (byteOf (indexIn pal p))).b.toNat = indexIn pal p :=
      Laws.byteOf_toNat (hj rfl)
    have hsame : decide (byteOf (indexIn pal p) = w.runVal.b) = true ↔
        (indexSymbol (byteOf (indexIn pal p))).b.toNat = w.runVal.b.toNat := by
      rw [decide_eq_true_iff]
      exact ⟨congrArg BitVec.toNat, BitVec.eq_of_toNat_eq⟩
    have hcons := openRuns_cons (val := fun v : Pixel => v.b.toNat) hsame (runBytes_runi w) (px.map (indexIn pal))
    simp only [hval] at hcons
    exact hcons
  case pack1 | pack2 | pack4 => exact packFrom_cons (hn _ rfl) (by decide) _

end Sys2Proof.Machine
end

section
/-! `ENC` refines the function level: the palette scan, the header, the pixel stream. -/

namespace Sys2Proof.Machine

/-! ### The outcome of an emission -/

/-- The last test of `ENCODE`: the whole file must fit `OBUF` (R57, R196). -/
def fileOutcome (caps : Caps) (pal : List Pixel) (B : List Byte) : Except ErrKind Encoded :=
  if fits B.length caps.obuf then .ok ⟨B, pal⟩ else .error .bufferOverflow

/-- The configuration that the registers request (R15). -/
def configOf (s : State) : EncConfig := ⟨s.version, s.depth, s.rle⟩

/-- `ENC` of the image `px` with its palette `pal` built and the bytes `out` written. -/
structure Encoding (kind : RecordKind) (px pal : List Pixel) (out : List Byte) (s : State) : Prop where
  alone : Alone s
  written : s.obuf.readRange 0 s.work.wp = some out
  room : fits s.work.wp s.caps.obuf = true
  entries : entryCount s = pal.length
  palette : s.pal.readRange 0 pal.length = some pal
  small : pal.length ≤ 256
  image : s.pmem.readRange 0 (pixelCount s) = some px
  indices : indexed kind = true → s.palSize.toNat = pal.length ∧ ∀ p ∈ px, p ∈ pal

section
variable {kind : RecordKind} {px pal : List Pixel} {out : List Byte} {s : State}

theorem Encoding.setJob (h : Encoding kind px pal out s) (j : Job) : Encoding kind px pal out (setJob j s) :=
  ⟨⟨h.alone.status, h.alone.err, h.alone.host⟩, h.written, h.room, h.entries, h.palette, h.small, h.image, h.indices⟩

theorem Encoding.nextPixel (h : Encoding kind px pal out s) : Encoding kind px pal out (nextPixel s) :=
  ⟨⟨h.alone.status, h.alone.err, h.alone.host⟩, h.written, h.room, h.entries, h.palette, h.small, h.image, h.indices⟩

theorem Encoding.encoderMove (h : Encoding kind px pal out s) {bs : List Byte}
    (hfit : fits (s.work.wp + bs.length) s.caps.obuf = true) (w : Work) :
    Encoding kind px pal (out ++ bs) (encoderMove bs w s) :=
  ⟨⟨h.alone.status, h.alone.err, h.alone.host⟩, Memory.readRange_append_writeRange h.written bs, hfit, h.entries,
    h.palette, h.small, h.image, h.indices⟩

theorem Encoding.emitBytes (h : Encoding kind px pal out s) {bs : List Byte}
    (hfit : fits (s.work.wp + bs.length) s.caps.obuf = true) : Encoding kind px pal (out ++ bs) (emitBytes bs s) :=
  h.encoderMove hfit s.work

/-- An emission that overflows ends the command as the whole file's test does. -/
theorem Encoding.overflow_ends (h : Encoding kind px pal out s) {bs more : List Byte} {D : Encoded → State → Prop}
    (hno : ¬ fits (s.work.wp + bs.length) s.caps.obuf = true) (hstep : engineStep s = .next (raise .bufferOverflow s)) :
    EndsWith D (fileOutcome s.caps pal (out ++ (bs ++ more))) s := by
  have hlen := Memory.readRange_length h.written
  unfold fileOutcome
  rw [if_neg fun hfit => hno (fits_le hfit (by simp only [List.length_append]; omega))]
  exact .of_raise h.alone hstep

/-- The end of the command delivers the file (R197). -/
theorem Encoding.finish_delivers (h : Encoding kind px pal out s) :
    EncDelivered (configOf s) ⟨out, pal⟩ (finishEnc (headerLength s) (entryCount s) s) := by
  have hlen := Memory.readRange_length h.written
  have hsmall := h.small
  have hhdr : headerLength s = if s.version = 3 then 14 + 3 * pal.length else 12 := by rw [headerLength, h.entries]
  refine ⟨rfl, h.alone.err, ?_, fun h32 => ?_, ?_, ?_, ?_⟩
  · rw [finishEnc_obuf]
    exact Memory.readRange_loosen (hlen ▸ h.written) _ hlen.le
  · have h32' : s.work.wp < 2 ^ 32 := hlen ▸ h32
    rw [finishEnc_outLen, outLenOf, if_pos h32', BitVec.toNat_ofNat, Nat.mod_eq_of_lt h32', hlen]
  · rw [finishEnc_hdrLen, hhdr, BitVec.toNat_ofNat]
    show (if s.version = 3 then 14 + 3 * pal.length else 12) % _ = if s.version = 3 then 14 + 3 * pal.length else 12
    split_ifs <;> omega
  · rw [finishEnc_palSize, h.entries, BitVec.toNat_ofNat]
    show pal.length % _ = pal.length
    omega
  · rw [finishEnc_pal, h.entries]
    exact Memory.readRange_loosen h.palette _ le_rfl

end

/-! ### The palette scan -/

/-- The scan of a palette given as a list finds the first place of `p` (R108, R110). -/
theorem paletteScan_list {m : Memory Pixel} (p : Pixel) {pal : List Pixel} {j : Nat}
    (h : m.readRange j pal.length = some pal) :
    paletteScan m p j pal.length = .ok (if p ∈ pal then some (j + pal.idxOf p) else none) := by
  induction pal generalizing j with
  | nil => rfl
  | cons q pal ih =>
    obtain ⟨hq, hrest⟩ := (Memory.readRange_succ _ _ _ _ _).1 h
    simp only [List.length_cons, paletteScan, hq]
    by_cases hqp : q = p
    · subst hqp; simp
    · rw [if_neg hqp, ih hrest, List.idxOf_cons_ne _ hqp]
      have hmem : p ∈ q :: pal ↔ p ∈ pal := by simp [Ne.symm hqp]
      simp only [hmem]
      split_ifs
      · rw [Nat.succ_eq_add_one, show j + 1 + pal.idxOf p = j + (pal.idxOf p + 1) by omega]
      · rfl

theorem paletteIndex_list {pal : List Pixel} {s : State} {p : Pixel} (h : PaletteIs pal s) (hp : p ∈ pal) :
    paletteIndex p s = .ok (indexIn pal p) := by
  unfold paletteIndex
  rw [h.size, paletteScan_list p h.entries, if_pos hp, Nat.zero_add]
  rfl

/-! ### The pixel stream of `ENC` -/

/-- The pixels still to come are encoded, and the command ends with the file. -/
theorem pixelsOut_end {kind : RecordKind} {px pal ps : List Pixel} {out : List Byte} {s : State}
    (hs : Encoding kind px pal out s) (hj : s.job = .encStream kind)
    (hlanes : ∀ d, packDepth kind = some d → s.work.accN.toNat < lanesPerByte d) (h8 : s.work.accN.toNat ≤ 8)
    (hps : px.drop s.work.pix = ps) (hpix : s.work.pix ≤ px.length) :
    EndsWith (EncDelivered (configOf s)) (fileOutcome s.caps pal (out ++ pendingBytes kind pal s.work ps)) s := by
  induction ps generalizing s out with
  | nil =>
    have hcount := Memory.readRange_length hs.image
    have hstep : engineStep s = settle s (encodeStep kind s) := by simp only [engineStep, hj]
    unfold encodeStep at hstep
    have hend := List.drop_eq_nil_iff.1 hps
    obtain ⟨w, hw⟩ := flushStream_eq (kind := kind) hs.room
    rw [if_neg (by omega), hw, moveOrOverflow] at hstep
    rw [pendingBytes_nil]
    by_cases hfit : fits (s.work.wp + (flushOutput kind s.work).length) s.caps.obuf = true
    · rw [if_pos hfit] at hstep
      have hs' := hs.encoderMove hfit w
      have hB : fits (out ++ flushOutput kind s.work).length s.caps.obuf = true := by
        rw [Memory.readRange_length hs'.written]; exact hfit
      unfold fileOutcome
      rw [if_pos hB]
      exact .of_done hs.alone hstep (by simp) hs'.finish_delivers
    · rw [if_neg hfit] at hstep
      simpa using hs.overflow_ends (more := []) hfit hstep
  | cons p ps ih =>
    have hcount := Memory.readRange_length hs.image
    have hstep : engineStep s = settle s (encodeStep kind s) := by simp only [engineStep, hj]
    unfold encodeStep at hstep
    have hget : px[s.work.pix]? = some p := getElem?_of_drop hps
    have hlt : s.work.pix < px.length := (List.getElem?_eq_some_iff.1 hget).1
    have hread : s.pmem.read s.work.pix = some p := Memory.read_of_readRange hs.image hget
    have hmem : p ∈ px := List.mem_of_getElem? hget
    have hfind : indexed kind = true → paletteIndex p s = .ok (indexIn pal p) := fun hk =>
      paletteIndex_list ⟨(hs.indices hk).1, hs.palette⟩ ((hs.indices hk).2 p hmem)
    have hidx : indexed kind = true → indexIn pal p < 256 := fun hk =>
      lt_of_lt_of_le (List.idxOf_lt_length_iff.2 ((hs.indices hk).2 p hmem)) hs.small
    rw [if_pos (by omega), readPixel_ok.2 hread] at hstep
    simp only [encodePixel_eq hs.room hfind, moveOrOverflow] at hstep
    rw [pendingBytes_cons ps hidx hlanes]
    generalize hbs : pixelOutput kind (indexIn pal p) p s.work = bs at hstep ⊢
    generalize hw : pixelWork kind (indexIn pal p) p s.work = w at hstep ⊢
    by_cases hfit : fits (s.work.wp + bs.length) s.caps.obuf = true
    · rw [if_pos hfit] at hstep
      obtain ⟨h8', hlanes'⟩ := hw ▸ pixelWork_accN (j := indexIn pal p) (p := p) h8 hlanes
      have hs' := (hs.encoderMove hfit w).nextPixel
      have hrest := ih hs' hj hlanes' h8' (drop_succ_of_drop hps) hlt
      rw [nextPixel_work, encoderMove_work, pendingBytes_cursors, List.append_assoc] at hrest
      exact .of_step hs.alone hstep hrest
    · rw [if_neg hfit] at hstep
      exact hs.overflow_ends hfit hstep

/-! ### The header of `ENC` -/

/-- The palette entries still to come are written, then the stream. -/
theorem paletteOut_ends {kind : RecordKind} {px pal ps : List Pixel} {out : List Byte} {i : Nat} {s : State}
    (hs : Encoding kind px pal out s) (hj : s.job = .encPalOut kind i) (hfresh : freshEnc s) (hps : pal.drop i = ps) :
    EndsWith (EncDelivered (configOf s)) (fileOutcome s.caps pal (out ++ (ps.flatMap pixelBytes ++ streamEnc kind pal px)))
      s := by
  induction ps generalizing s out i with
  | nil =>
    have hstep : engineStep s = settle s (paletteOutStep kind i s) := by simp only [engineStep, hj]
    have hend := List.drop_eq_nil_iff.1 hps
    unfold paletteOutStep at hstep
    rw [if_neg (by rw [hs.entries]; omega)] at hstep
    obtain ⟨hpix, hcnt, hacc, hn, hprev⟩ := hfresh
    have hstream := pixelsOut_end (hs.setJob (.encStream kind)) (ps := px) rfl
      (fun d hd => by
        rw [setJob_work, hn]
        exact lanesPerByte_pos hd)
      (by rw [setJob_work, hn]; exact Nat.zero_le 8)
      (by rw [setJob_work, hpix, List.drop_zero]) (by rw [setJob_work, hpix]; exact Nat.zero_le _)
    rw [setJob_work, pendingBytes_fresh hcnt hacc hn hprev] at hstream
    exact .of_step hs.alone hstep hstream
  | cons p ps ih =>
    have hstep : engineStep s = settle s (paletteOutStep kind i s) := by simp only [engineStep, hj]
    have hget : pal[i]? = some p := getElem?_of_drop hps
    have hlt : i < pal.length := (List.getElem?_eq_some_iff.1 hget).1
    have hread : s.pal.read i = some p := Memory.read_of_readRange hs.palette hget
    unfold paletteOutStep at hstep
    rw [if_pos (by rw [hs.entries]; exact hlt), hread] at hstep
    dsimp only at hstep
    rw [show encode (.pal p.r p.g p.b) = pixelBytes p from rfl] at hstep
    rw [List.flatMap_cons, List.append_assoc]
    by_cases hfit : fits (s.work.wp + (pixelBytes p).length) s.caps.obuf = true
    · rw [emit_of_fits hfit] at hstep
      have hrest := ih ((hs.emitBytes hfit).setJob (.encPalOut kind (i + 1))) rfl hfresh
        (drop_succ_of_drop hps)
      rw [List.append_assoc] at hrest
      exact .of_step hs.alone hstep hrest
    · rw [emit_of_not_fits hfit] at hstep
      exact hs.overflow_ends hfit hstep

/-- The registers' header and palette are the header of the function level (R182, R183). -/
theorem headerBytes_eq {s : State} {pal : List Pixel} (h : entryCount s = pal.length) :
    headerBytes (configOf s) s.width s.height pal = encode (headerInstr s) ++ pal.flatMap pixelBytes := by
  unfold headerBytes headerInstr headerLength
  rw [h]
  by_cases hv : s.version = 3
  · rw [if_pos (show (configOf s).version = 3 from hv), if_pos hv, if_pos hv]; rfl
  · have hno : entryCount s = 0 := if_neg fun hp => hv hp.1
    have hnil : pal = [] := List.eq_nil_of_length_eq_zero (h.symm.trans hno)
    rw [if_neg (show (configOf s).version ≠ 3 from hv), if_neg hv, hnil]
    exact (List.append_nil _).symm

/-- With the palette built, the command writes the file. -/
theorem file_ends {kind : RecordKind} {px pal : List Pixel} {s : State} (hs : Encoding kind px pal [] s)
    (hj : s.job = .encHeader kind) (hfresh : freshEnc s) :
    EndsWith (EncDelivered (configOf s))
      (fileOutcome s.caps pal (fileWith (configOf s) kind s.width s.height pal px)) s := by
  have hstep : engineStep s = settle s (headerStep kind s) := by simp only [engineStep, hj]
  unfold headerStep at hstep
  rw [fileWith, headerBytes_eq hs.entries, List.append_assoc]
  by_cases hfit : fits (s.work.wp + (encode (headerInstr s)).length) s.caps.obuf = true
  · rw [emit_of_fits hfit] at hstep
    exact .of_step hs.alone hstep
      (paletteOut_ends ((hs.emitBytes hfit).setJob (.encPalOut kind 0)) rfl hfresh List.drop_zero)
  · rw [emit_of_not_fits hfit] at hstep
    exact hs.overflow_ends (out := []) hfit hstep

/-! ### The palette scan of `ENC` -/

/-- What `ENCODE` does once the stream is selected (R195). -/
def encodeBody (caps : Caps) (c : EncConfig) (kind : RecordKind) (w h : Half) (px : List Pixel)
    (palette : Except ErrKind (List Pixel)) : Except ErrKind Encoded :=
  match palette with
  | .error e => .error e
  | .ok pal => fileOutcome caps pal (fileWith c kind w h pal px)

/-- `ENC` with no byte written and the working registers as R28 leaves them. -/
structure Fresh (px : List Pixel) (s : State) : Prop where
  alone : Alone s
  fresh : freshEnc s
  wp : s.work.wp = 0
  image : s.pmem.readRange 0 (pixelCount s) = some px

theorem Fresh.setJob {px : List Pixel} {s : State} (h : Fresh px s) (j : Job) : Fresh px (setJob j s) :=
  ⟨⟨h.alone.status, h.alone.err, h.alone.host⟩, h.fresh, h.wp, h.image⟩

theorem Fresh.encoding {kind : RecordKind} {px pal : List Pixel} {s : State} (h : Fresh px s)
    (hentries : entryCount s = pal.length) (hpal : s.pal.readRange 0 pal.length = some pal) (hsmall : pal.length ≤ 256)
    (hidx : indexed kind = true → s.palSize.toNat = pal.length ∧ ∀ p ∈ px, p ∈ pal) : Encoding kind px pal [] s :=
  ⟨h.alone, by rw [h.wp]; rfl, by rw [h.wp]; exact fits_zero _, hentries, hpal, hsmall, h.image, hidx⟩

/-- The scan goes on as `BuildPalette` does, and the file follows (R108, R109). -/
theorem scan_ends {kind : RecordKind} {px pal ps : List Pixel} {i : Nat} {s : State} (hs : Fresh px s)
    (hj : s.job = .encPalette kind i) (huse : usesPalette s.version s.depth) (hcap : 2 ^ s.depth.toNat ≤ 256)
    (hpal : PaletteIs pal s) (hsmall : pal.length ≤ 2 ^ s.depth.toNat) (hps : px.drop i = ps)
    (hcov : ∀ p ∈ px.take i, p ∈ pal) :
    EndsWith (EncDelivered (configOf s))
      (encodeBody s.caps (configOf s) kind s.width s.height px (buildPalette (2 ^ s.depth.toNat) ps pal)) s := by
  induction ps generalizing s pal i with
  | nil =>
    have hcount := Memory.readRange_length hs.image
    have hstep : engineStep s = settle s (paletteStep kind i s) := by simp only [engineStep, hj]
    have hend := List.drop_eq_nil_iff.1 hps
    unfold paletteStep at hstep
    rw [if_pos (by omega)] at hstep
    rw [List.take_of_length_le hend] at hcov
    have hs' := hs.setJob (.encHeader kind)
    have hentries : entryCount s = pal.length := (if_pos huse).trans hpal.size
    exact .of_step hs.alone hstep
      (file_ends (hs'.encoding hentries hpal.entries (by omega) fun _ => ⟨hpal.size, hcov⟩) rfl hs.fresh)
  | cons p ps ih =>
    have hcount := Memory.readRange_length hs.image
    have hstep : engineStep s = settle s (paletteStep kind i s) := by simp only [engineStep, hj]
    have hget : px[i]? = some p := getElem?_of_drop hps
    have hlt : i < px.length := (List.getElem?_eq_some_iff.1 hget).1
    have hread : s.pmem.read i = some p := Memory.read_of_readRange hs.image hget
    have hnext : px.drop (i + 1) = ps := drop_succ_of_drop hps
    have htake : px.take (i + 1) = px.take i ++ [p] := by rw [List.take_add_one, hget]; rfl
    unfold paletteStep at hstep
    rw [if_neg (by omega), readPixel_ok.2 hread, hpal.size] at hstep
    simp only [paletteScan_list p hpal.entries] at hstep
    unfold buildPalette
    by_cases hp : p ∈ pal
    · rw [if_pos hp] at hstep ⊢
      have hs' := hs.setJob (.encPalette kind (i + 1))
      refine .of_step hs.alone hstep (ih hs' rfl huse hcap ⟨hpal.size, hpal.entries⟩ hsmall hnext ?_)
      rw [htake]
      rintro q hq
      rcases List.mem_append.1 hq with hq | hq
      · exact hcov q hq
      · rw [List.mem_singleton.1 hq]; exact hp
    rw [if_neg hp] at hstep ⊢
    by_cases hfull : 2 ^ s.depth.toNat ≤ pal.length
    · simp only [if_pos hfull] at hstep
      rw [if_pos hfull]
      exact .of_raise hs.alone hstep
    · simp only [if_neg hfull] at hstep
      rw [if_neg hfull]
      have hs' : Fresh px (setJob (.encPalette kind (i + 1)) (setPalSize (pal.length + 1) (writePal pal.length p s))) :=
        ⟨⟨hs.alone.status, hs.alone.err, hs.alone.host⟩, hs.fresh, hs.wp, hs.image⟩
      have hpal' : PaletteIs (pal ++ [p])
          (setJob (.encPalette kind (i + 1)) (setPalSize (pal.length + 1) (writePal pal.length p s))) := by
        refine ⟨?_, ?_⟩
        · simp only [setJob_palSize, setPalSize_palSize, BitVec.toNat_ofNat, List.length_append, List.length_singleton]
          omega
        · rw [List.length_append]
          exact Memory.readRange_append_writeRange hpal.entries [p]
      refine .of_step hs.alone hstep (ih hs' rfl huse hcap hpal' ?_ hnext ?_)
      · rw [List.length_append]
        show pal.length + 1 ≤ 2 ^ s.depth.toNat
        omega
      · rw [htake]
        exact fun q hq => (List.mem_append.1 hq).elim (fun h => List.mem_append_left _ (hcov q h)) (List.mem_append_right _)

/-! ### The whole command -/

/-- Only a version 3 stream with a palette has indices (R64). -/
theorem usesPalette_of_indexed {v d r : Byte} {kind : RecordKind} (h : streamKind v d r = some kind)
    (hk : indexed kind = true) : usesPalette v d := by
  unfold streamKind at h
  constructor
  · by_contra h3
    split_ifs at h <;> cases h <;> cases hk
  · intro h24
    simp only [if_pos h24] at h
    split_ifs at h <;> cases h <;> cases hk

theorem encodeWithin_selected {caps : Caps} {c : EncConfig} {w h : Half} {px : List Pixel} {kind : RecordKind}
    (hlegal : legalConfig c.version c.depth) (hfit : fits (w.toNat * h.toNat) caps.pmem = true)
    (hkind : streamKind c.version c.depth (effectiveRle c.depth c.rle) = some kind) :
    encodeWithin caps c w h px = encodeBody caps c kind w h px (paletteFor c px) := by
  unfold encodeWithin encodeBody
  rw [if_neg (not_not.2 hlegal), if_neg (by simp [hfit]), hkind]
  dsimp only
  cases paletteFor c px <;> rfl

/-- From its start, `ENC` ends with the outcome of the function level. -/
theorem enc_ends {s : State} {px : List Pixel} (hs : Fresh px s) (hj : s.job = .encStart) :
    EndsWith (EncDelivered (configOf s)) (encodeWithin s.caps (configOf s) s.width s.height px) s := by
  have hstep : engineStep s = settle s (encStart s) := by simp only [engineStep, hj]
  unfold encStart at hstep
  by_cases hlegal : legalConfig s.version s.depth
  case neg =>
    rw [if_pos hlegal] at hstep
    rw [encodeWithin, if_pos (show ¬ legalConfig (configOf s).version (configOf s).depth from hlegal)]
    exact .of_raise hs.alone hstep
  by_cases hfit : fits (pixelCount s) s.caps.pmem = true
  case neg =>
    rw [if_neg (not_not.2 hlegal), if_pos (by simpa using hfit)] at hstep
    rw [encodeWithin, if_neg (show ¬ ¬ legalConfig (configOf s).version (configOf s).depth from not_not.2 hlegal),
      if_pos (by simpa [pixelCount] using hfit)]
    exact .of_raise hs.alone hstep
  rw [if_neg (not_not.2 hlegal), if_neg (by simp [hfit])] at hstep
  obtain ⟨kind, hsel⟩ := selects_of_legal s.rle hlegal
  have hkind := selects_streamKind hsel
  rw [hkind] at hstep
  rw [encodeWithin_selected (c := configOf s) hlegal hfit hkind]
  dsimp only at hstep
  by_cases huse : usesPalette s.version s.depth
  · rw [if_pos huse] at hstep
    rw [show paletteFor (configOf s) px = buildPalette (2 ^ s.depth.toNat) px [] from if_pos huse]
    have hs' : Fresh px (setJob (.encPalette kind 0) (setPalSize 0 s)) :=
      ⟨⟨hs.alone.status, hs.alone.err, hs.alone.host⟩, hs.fresh, hs.wp, hs.image⟩
    exact .of_step hs.alone hstep
      (scan_ends hs' rfl huse (two_pow_depth_le hlegal huse) ⟨rfl, rfl⟩ (Nat.zero_le _) List.drop_zero (by simp))
  · rw [if_neg huse] at hstep
    rw [show paletteFor (configOf s) px = .ok [] from if_neg huse]
    have hs' := hs.setJob (.encHeader kind)
    exact .of_step hs.alone hstep
      (file_ends (hs'.encoding (pal := []) (if_neg huse) rfl (Nat.zero_le _)
        fun hk => absurd (usesPalette_of_indexed hkind hk) huse) rfl hs.fresh)

/-- Settles O57: the palette scan does what `BuildPalette` does, and each pixel step brings out the next bytes of the
stream encoder. -/
theorem encRefines : Obligations.EncRefines := by
  intro s u px hb hh himage hu
  have hstart : exec .enc s = .next (startCommand .encStart s) := if_neg hb
  cases hu.symm.trans hstart
  obtain ⟨n, t, hrun, hend, hdel⟩ := enc_ends (px := px) (s := startCommand .encStart s)
    ⟨⟨rfl, rfl, hh⟩, ⟨rfl, rfl, rfl, rfl, rfl⟩, rfl, himage⟩ rfl
  refine ⟨n, t, hrun, hend, ?_⟩
  change Delivers (EncDelivered ⟨s.version, s.depth, s.rle⟩)
    (encodeWithin s.caps ⟨s.version, s.depth, s.rle⟩ s.width s.height px) t at hdel
  generalize encodeWithin s.caps ⟨s.version, s.depth, s.rle⟩ s.width s.height px = r at hdel ⊢
  cases r <;> exact hdel

end Sys2Proof.Machine
end

section
/-! The records of a pixel stream that complete: what each stores, and that it stores nothing else. -/

namespace Sys2Proof.Machine

/-! ### What a completed record stores -/

theorem streamFrame_storeRecord (ps : List Pixel) (len : Nat) (prev : Pixel) (acc : Byte) (accN : BitVec 4) (s : State) :
    StreamFrame s (storeRecord ps len prev acc accN s) := by
  constructor <;> intros <;> rfl

theorem pixelsStored_storeRecord (ps : List Pixel) (len : Nat) (prev : Pixel) (acc : Byte) (accN : BitVec 4) (s : State) :
    PixelsStored s (storeRecord ps len prev acc accN s) ps :=
  fun i => Memory.read_writeRange ps s.pmem s.work.pix i

/-- A record that completes has the effect of every record (R22): its pixels at `PMEM[PIX]` onwards, both cursors, and
what it leaves in `PREV`, `ACC` and `ACC_N`. -/
theorem exists_stored_of_exec {i : Instr} {s : State} {ps : List Pixel} {len : Nat} {prev : Pixel} {acc : Byte}
    {accN : BitVec 4} (he : exec i s = .next (storeRecord ps len prev acc accN s)) :
    ∃ t, exec i s = .next t ∧ StreamFrame s t ∧ PixelsStored s t ps ∧
      t.work = { s.work with
        prev := prev, acc := acc, accN := accN, pix := s.work.pix + ps.length, rp := s.work.rp + len } :=
  ⟨_, he, streamFrame_storeRecord .., pixelsStored_storeRecord _ _ _ _ _ _, rfl⟩

/-- A record that leaves `PREV`, `ACC` and `ACC_N` alone. -/
theorem exists_stored_of_putPixels {i : Instr} {s : State} {ps : List Pixel} {len : Nat}
    (he : exec i s = .next (putPixels ps len s)) :
    ∃ t, exec i s = .next t ∧ StreamFrame s t ∧ PixelsStored s t ps ∧
      t.work = { s.work with pix := s.work.pix + ps.length, rp := s.work.rp + len } :=
  exists_stored_of_exec (prev := s.work.prev) (acc := s.work.acc) (accN := s.work.accN) he

/-! ### Records of one pixel and runs -/

/-- Settles O18: a raw record is its own pixel. -/
theorem pixResult : Obligations.PixResult := by
  rintro s h r g b ⟨hj, hk, hp⟩
  exact exists_stored_of_putPixels (ps := [⟨r, g, b⟩]) (len := 3) (inStream_of_job hj hk hp)

/-- Settles O19: the lookup of a valid, written entry succeeds. -/
theorem idxResult : Obligations.IdxResult := by
  rintro s h i p ⟨hj, hk, hp⟩ hi hread
  have hlook : paletteLookup i.toNat s = .ok p := paletteLookup_ok.2 ⟨hi, hread⟩
  refine exists_stored_of_putPixels (ps := [p]) (len := 1) ((inStream_of_job hj hk hp).trans ?_)
  rw [hlook, settle_ok]

/-- A run record whose tests all pass (R165). -/
theorem runRecord_ok {n : Byte} {p : Pixel} {len : Nat} {h : Hdr} {s : State} (hn : n ≠ 0)
    (hfit : s.work.pix + n.toNat ≤ h.pixels) :
    runRecord n (.ok p) len h s = .ok (putPixels (List.replicate n.toNat p) len s) := by
  unfold runRecord
  rw [if_neg hn]
  exact if_neg (not_lt.2 hfit)

theorem exists_stored_of_runRecord {i : Instr} {s : State} {h : Hdr} {n : Byte} {p : Pixel} {len : Nat} (hn : n ≠ 0)
    (hfit : s.work.pix + n.toNat ≤ h.pixels) (he : exec i s = settle s (runRecord n (.ok p) len h s)) :
    ∃ t, exec i s = .next t ∧ StreamFrame s t ∧ PixelsStored s t (List.replicate n.toNat p) ∧
      t.work = { s.work with pix := s.work.pix + n.toNat, rp := s.work.rp + len } := by
  rw [runRecord_ok hn hfit, settle_ok] at he
  simpa using exists_stored_of_putPixels he

/-- Settles O20: the three tests of `RleDec` pass. -/
theorem runResult : Obligations.RunResult := by
  rintro s h n r g b ⟨hj, hk, hp⟩ hn hfit
  exact exists_stored_of_runRecord hn hfit (inStream_of_job hj hk hp)

/-- Settles O21: as for `RUN`, with the palette entry as its value. -/
theorem runiResult : Obligations.RuniResult := by
  rintro s h n i p ⟨hj, hk, hp⟩ hn hi hread hfit
  have hlook : paletteLookup i.toNat s = .ok p := paletteLookup_ok.2 ⟨hi, hread⟩
  refine exists_stored_of_runRecord hn hfit ((inStream_of_job hj hk hp).trans ?_)
  rw [hlook]

/-! ### Packed records -/

theorem packRecord_ok {d : Nat} {lanes : List Nat} {ps : List Pixel} {h : Hdr} {s : State}
    (hps : paletteLookups (lanes.take (h.pixels - s.work.pix)) s = .ok ps) :
    packRecord d lanes h s = .ok (storeRecord ps 1 s.work.prev (byteOf (packByte d lanes))
      (BitVec.ofNat 4 (lanes.take (h.pixels - s.work.pix)).length) s) := by
  unfold packRecord
  simp only [hps]
  rfl

/-- A packed instruction does what `packRecord` says of its depth and lanes. -/
theorem exec_pack {i : Instr} {kind : RecordKind} {d : Nat} {lanes : List Nat} {h : Hdr} {s : State}
    (hi : packOf i = some (kind, d, lanes)) (hs : InStream kind h s) : exec i s = settle s (packRecord d lanes h s) := by
  obtain ⟨hj, hk, hp⟩ := hs
  cases i
  case pack1 | pack2 | pack4 => cases hi; exact inStream_of_job hj hk hp
  all_goals cases hi

/-- Settles O22: the lookups of the lanes taken succeed, in order. -/
theorem packResult : Obligations.PackResult := by
  rintro s h i kind d lanes taken ps hi hs rfl hps
  have he := exec_pack hi hs
  rw [packRecord_ok (paletteLookups_ok.2 hps), settle_ok] at he
  rw [hps.length_eq] at he ⊢
  exact exists_stored_of_exec he

/-! ### Version 4 blocks -/

theorem makePixel_chan (p : Pixel) : makePixel (chan p.r) (chan p.g) (chan p.b) = .ok p := by
  have hchan : ∀ c : Byte, isChannel (chan c) := fun c => by
    have := c.isLt
    simp only [isChannel, chan]
    omega
  unfold makePixel
  rw [if_pos ⟨hchan _, hchan _, hchan _⟩]
  simp [chan]

/-- The deltas lead from the previous pixel to `cur`, so they reconstruct it (R140 to R144). -/
theorem reconstruct_ok {prev cur : Pixel} {dr dg db : Int} (hr : chan cur.r = chan prev.r + dr)
    (hg : chan cur.g = chan prev.g + dg) (hb : chan cur.b = chan prev.b + db) : reconstruct prev dr dg db = .ok cur := by
  rw [reconstruct, ← hr, ← hg, ← hb, makePixel_chan]

/-- A relative block is stored under the pixel it reconstructs and moves `RP` by its own length. -/
theorem exec_deltaBlock {i : Instr} {dr dg db : Int} {h : Hdr} {s : State} (hi : deltaOf i = some (dr, dg, db))
    (hs : InStream .delta h s) :
    exec i s = settle s (putBlock (reconstruct s.work.prev dr dg db) (encode i).length s) := by
  obtain ⟨hj, hk, hp⟩ := hs
  cases i
  case small | inter | bigr | bigg | bigb => cases hi; exact inStream_of_job hj hk hp
  all_goals cases hi

/-- Settles O23: the block stores what it reconstructs. -/
theorem deltaResult : Obligations.DeltaResult := by
  intro s h i dr dg db cur hi hs hr hg hb
  have he := exec_deltaBlock hi hs
  rw [reconstruct_ok hr hg hb] at he
  exact exists_stored_of_exec (ps := [cur]) (prev := cur) (acc := s.work.acc) (accN := s.work.accN) he

/-- Settles O24: the block stores the pixel it carries. -/
theorem newResult : Obligations.NewResult := by
  rintro s h r g b ⟨hj, hk, hp⟩
  exact exists_stored_of_exec (ps := [⟨r, g, b⟩]) (len := 4) (acc := s.work.acc) (accN := s.work.accN)
    (inStream_of_job hj hk hp)

end Sys2Proof.Machine
end

section
/-! What a step can do to `STATUS`, to `ERR` and to the command in progress. -/

namespace Sys2Proof.Machine

/-! ### Moves of the control state -/

/-- `STATUS`, `ERR` and the command in progress, as one value (R13, R14). -/
structure Control where
  status : Status
  err : ErrKind
  job : Job

/-- The control state of a machine. -/
def control (s : State) : Control := ⟨s.status, s.err, s.job⟩

/-- Everything one step can do to the control state. `rst` says whether the host asserts `rst` in it. -/
inductive ControlMove (rst : Prop) : Control → Control → Prop
  /-- nothing -/
  | kept (c : Control) : ControlMove rst c c
  /-- the command in progress enters another phase -/
  | phase {st : Status} {e : ErrKind} {j j' : Job} (hj : j ≠ .none) (hj' : j' ≠ .none) :
      ControlMove rst ⟨st, e, j⟩ ⟨st, e, j'⟩
  /-- the command in progress completes (R197, R233) -/
  | finish {st : Status} {e : ErrKind} {j : Job} (hj : j ≠ .none) : ControlMove rst ⟨st, e, j⟩ ⟨.done, e, .none⟩
  /-- the command in progress takes an error (R262) -/
  | fail {st : Status} {e e' : ErrKind} {j : Job} (hj : j ≠ .none) (he : IsCode e') :
      ControlMove rst ⟨st, e, j⟩ ⟨.error, e', .none⟩
  /-- a command starts (R12) -/
  | start {st : Status} {e : ErrKind} {j j' : Job} (hb : st ≠ .busy) (hj' : j' ≠ .none) :
      ControlMove rst ⟨st, e, j⟩ ⟨.busy, .none, j'⟩
  /-- `CLR` (R264) -/
  | clear {st : Status} {e : ErrKind} {j : Job} (hb : st ≠ .busy) : ControlMove rst ⟨st, e, j⟩ ⟨.idle, .none, j⟩
  /-- `rst` (R280) -/
  | reset (h : rst) (c : Control) : ControlMove rst c ⟨.idle, .none, .none⟩

theorem ControlMove.mono {p q : Prop} {c d : Control} (hpq : p → q) (h : ControlMove p c d) : ControlMove q c d := by
  cases h with
  | kept => exact .kept _
  | phase hj hj' => exact .phase hj hj'
  | finish hj => exact .finish hj
  | fail hj he => exact .fail hj he
  | start hb hj' => exact .start hb hj'
  | clear hb => exact .clear hb
  | reset h => exact .reset (hpq h) _

/-- `ControlInv` as a statement about the control state alone. -/
structure Control.Agrees (c : Control) : Prop where
  busy_iff : c.status = .busy ↔ c.job ≠ .none
  err_iff : c.err = .none ↔ c.status ≠ .error
  err_kind : c.err ≠ .indexOutOfBounds

theorem controlInv_iff (s : State) : ControlInv s ↔ (control s).Agrees :=
  ⟨fun ⟨hb, he, hk⟩ => ⟨hb, he, hk⟩, fun ⟨hb, he, hk⟩ => ⟨hb, he, hk⟩⟩

/-- A command in progress has met no error. -/
theorem Control.Agrees.running {c : Control} (h : c.Agrees) (hj : c.job ≠ .none) : c.status = .busy ∧ c.err = .none := by
  have hb := h.busy_iff.2 hj
  exact ⟨hb, h.err_iff.2 (by simp [hb])⟩

theorem ControlMove.agrees {rst : Prop} {c d : Control} (h : ControlMove rst c d) (hc : c.Agrees) : d.Agrees := by
  cases h with
  | kept => exact hc
  | phase hj hj' =>
    obtain ⟨rfl, rfl⟩ := hc.running hj
    exact ⟨by simp [hj'], by simp, by simp⟩
  | finish hj =>
    obtain ⟨rfl, rfl⟩ := hc.running hj
    exact ⟨by simp, by simp, by simp⟩
  | fail hj he => exact ⟨by simp, by simp [he.1], he.2⟩
  | start hb hj' => exact ⟨by simp [hj'], by simp, by simp⟩
  | clear hb =>
    have hj := hc.busy_iff.not.1 hb
    exact ⟨by simpa using hj, by simp, by simp⟩
  | reset h => exact ⟨by simp, by simp, by simp⟩

/-- Without `rst`, every move is a transition that R13 lists. -/
theorem ControlMove.statusMay {rst : Prop} {c d : Control} (h : ControlMove rst c d) (hc : c.Agrees) (hr : ¬ rst) :
    statusMay c.status d.status = true := by
  have hsame : ∀ st : Status, Machine.statusMay st st = true := fun st => by cases st <;> rfl
  cases h with
  | kept => exact hsame _
  | phase => exact hsame _
  | finish hj =>
    obtain ⟨rfl, -⟩ := hc.running hj
    rfl
  | fail hj =>
    obtain ⟨rfl, -⟩ := hc.running hj
    rfl
  | @start st _ _ _ hb => cases st <;> rfl
  | @clear st _ _ hb =>
    cases st
    case busy => exact absurd rfl hb
    all_goals rfl
  | reset h => exact absurd h hr

/-! ### Results of the engine's operations -/

/-- A result that, where it completes, has `P`, and raises only codes of `ERR`. -/
structure Yields {α : Type} (P : α → Prop) (r : Except Stop α) : Prop where
  ok : ∀ t, r = .ok t → P t
  err : ∀ e, r = .error (.err e) → IsCode e

section
variable {α β : Type} {P : α → Prop} {Q : β → Prop}

theorem Yields.of_ok {a : α} (h : P a) : Yields P (.ok a) where
  ok := by rintro _ ⟨⟩; exact h
  err := by rintro _ ⟨⟩

theorem Yields.of_err {e : ErrKind} (h : IsCode e) : Yields P (.error (.err e)) where
  ok := by rintro _ ⟨⟩
  err := by rintro _ ⟨⟩; exact h

theorem Yields.of_fault (f : Fault) : Yields P (.error (.fault f)) where
  ok := by rintro _ ⟨⟩
  err := by rintro _ ⟨⟩

/-- An error that is passed on. -/
theorem Yields.error {r : Except Stop α} (h : Yields P r) {e : Stop} (he : r = .error e) : Yields Q (.error e) where
  ok := fun _ hok => nomatch hok
  err := fun k hk => h.err k (by cases hk; exact he)

end

/-- A search or a lookup, of which only the error matters here. -/
abbrev RaisesCodes {α : Type} (r : Except Stop α) : Prop := Yields (fun _ => True) r

theorem raisesCodes_readPixel (i : Nat) (s : State) : RaisesCodes (readPixel i s) := by
  unfold readPixel
  split
  · exact .of_ok trivial
  · exact .of_fault _

theorem raisesCodes_paletteScan (pal : Memory Pixel) (p : Pixel) (j n : Nat) : RaisesCodes (paletteScan pal p j n) :=
  ⟨fun _ _ => trivial, fun _ he => absurd he paletteScan_not_err⟩

theorem raisesCodes_paletteIndex (p : Pixel) (s : State) : RaisesCodes (paletteIndex p s) :=
  ⟨fun _ _ => trivial, fun _ he => absurd he paletteIndex_not_err⟩

theorem raisesCodes_paletteLookup (i : Nat) (s : State) : RaisesCodes (paletteLookup i s) := by
  refine ⟨fun _ _ => trivial, fun e he => ?_⟩
  obtain ⟨-, h⟩ | ⟨-, -, h⟩ := paletteLookup_error he <;> cases h
  exact isCode_formatError

theorem raisesCodes_paletteLookups (is : List Nat) (s : State) : RaisesCodes (paletteLookups is s) := by
  induction is with
  | nil => exact .of_ok trivial
  | cons i is ih =>
    unfold paletteLookups
    split
    · exact (raisesCodes_paletteLookup i s).error ‹_›
    split
    · exact ih.error ‹_›
    · exact .of_ok trivial

/-- An update that leaves the control state and the host accesses alone. -/
structure SameCommand (s t : State) : Prop where
  control : control t = control s
  host : t.host = s.host

/-- What an engine step can do to the control state; the host accesses stay. -/
structure EngineMove (s t : State) : Prop where
  move : ControlMove False (control s) (control t)
  host : t.host = s.host

theorem SameCommand.engineMove {s t : State} (h : SameCommand s t) : EngineMove s t :=
  ⟨h.control ▸ .kept _, h.host⟩

theorem SameCommand.setJob {s t : State} (h : SameCommand s t) (hs : s.job ≠ .none) {j : Job} (hj : j ≠ .none) :
    EngineMove s (setJob j t) := by
  have hc : Machine.control (Machine.setJob j t) = { Machine.control s with job := j } := by rw [← h.control]; rfl
  exact ⟨hc ▸ .phase hs hj, h.host⟩

theorem SameCommand.finishDec {s t : State} (h : SameCommand s t) (hs : s.job ≠ .none) (hd : Hdr) :
    EngineMove s (finishDec hd t) := by
  have hc : Machine.control (Machine.finishDec hd t) = ⟨.done, s.err, .none⟩ :=
    congrArg (fun c : Control => (⟨.done, c.err, .none⟩ : Control)) h.control
  exact ⟨hc ▸ .finish hs, h.host⟩

theorem SameCommand.finishEnc {s t : State} (h : SameCommand s t) (hs : s.job ≠ .none) (hl k : Nat) :
    EngineMove s (finishEnc hl k t) := by
  have hc : Machine.control (Machine.finishEnc hl k t) = ⟨.done, s.err, .none⟩ :=
    congrArg (fun c : Control => (⟨.done, c.err, .none⟩ : Control)) h.control
  exact ⟨hc ▸ .finish hs, h.host⟩

theorem EngineMove.of_raise {s : State} (hs : s.job ≠ .none) {e : ErrKind} (he : IsCode e) : EngineMove s (raise e s) :=
  ⟨.fail hs he, raise_host e s⟩

theorem Yields.settle {s t : State} {r : Except Stop State} (hr : Yields (EngineMove s) r) (hs : s.job ≠ .none)
    (h : settle s r = .next t) : EngineMove s t := by
  rcases settle_next h with rfl | ⟨e, rfl, rfl⟩
  · exact hr.ok t rfl
  · exact .of_raise hs (hr.err e rfl)

/-! ### The phases of `DEC` -/

section
variable {s t u : State}

theorem beginStream_yields (hu : SameCommand s u) (hs : s.job ≠ .none) (h : Hdr) :
    Yields (EngineMove s) (beginStream h u) := by
  rcases beginStream_cases h u with ⟨he, -⟩ | ⟨he, -⟩ | ⟨he, -⟩ <;> rw [he]
  · exact .of_err isCode_bufferOverflow
  · exact .of_err isCode_pixelCountMismatch
  · exact .of_ok (hu.setJob hs (by simp))

theorem parse12_yields (hs : s.job ≠ .none) (v : Byte) (w h : Half) : Yields (EngineMove s) (parse12 v w h s) := by
  unfold parse12
  split_ifs
  · exact .of_err isCode_formatError
  split
  · exact .of_err isCode_formatError
  · exact beginStream_yields (s := s) (u := skipBytes 12 (setPalSize 0 s)) ⟨rfl, rfl⟩ hs _

theorem parse3_yields (hs : s.job ≠ .none) (hl w h : Half) (d f : Byte) : Yields (EngineMove s) (parse3 hl w h d f s) := by
  have hsame : SameCommand s (skipBytes 14 (setPalSize (paletteEntries hl d) s)) := ⟨rfl, rfl⟩
  unfold parse3
  split_ifs
  · exact .of_err isCode_formatError
  split
  · exact .of_err isCode_formatError
  · dsimp only
    split_ifs
    · exact beginStream_yields hsame hs _
    · exact .of_ok (hsame.setJob hs (by simp))

theorem loadEntry_yields (hs : s.job ≠ .none) (hd : Hdr) (i : Nat) (p : Pixel) :
    Yields (EngineMove s) (loadEntry hd i p s) := by
  have hsame : SameCommand s (skipBytes 3 (writePal i p s)) := ⟨rfl, rfl⟩
  unfold loadEntry
  dsimp only
  split_ifs
  · exact .of_ok (hsame.setJob hs (by simp))
  · exact beginStream_yields hsame hs hd

theorem runRecord_yields {value : Except Stop Pixel} (hv : RaisesCodes value) (n : Byte) (len : Nat) (h : Hdr) :
    Yields (SameCommand s) (runRecord n value len h s) := by
  unfold runRecord
  split
  · exact .of_err isCode_formatError
  split
  · exact hv.error rfl
  split
  · exact .of_err isCode_pixelCountMismatch
  · exact .of_ok ⟨rfl, rfl⟩

theorem packRecord_yields (d : Nat) (lanes : List Nat) (h : Hdr) : Yields (SameCommand s) (packRecord d lanes h s) := by
  unfold packRecord
  dsimp only
  split
  · exact (raisesCodes_paletteLookups _ s).error ‹_›
  · exact .of_ok ⟨rfl, rfl⟩

theorem putBlock_yields {cur : Except ErrKind Pixel} (hcur : ∀ e, cur = .error e → IsCode e) (len : Nat) :
    Yields (SameCommand s) (putBlock cur len s) := by
  cases cur with
  | error e => exact .of_err (hcur e rfl)
  | ok p => exact .of_ok ⟨rfl, rfl⟩

theorem reconstruct_isCode {prev : Pixel} {dr dg db : Int} (e : ErrKind) (h : reconstruct prev dr dg db = .error e) :
    IsCode e := by
  rw [reconstruct_error h]
  simp [IsCode]

/-- A record of the pixel stream leaves the phase as it is, or raises an error. -/
theorem inStream_move {mn : String} {kind : RecordKind} {body : Hdr → Except Stop State}
    (hbody : ∀ hd, Yields (SameCommand s) (body hd)) (h : inStream mn kind s body = .next t) : EngineMove s t := by
  obtain ⟨hd, hj, -, ⟨-, rfl⟩ | ⟨-, hrun⟩⟩ := inStream_next h
  · exact .of_raise (by simp [hj]) isCode_pixelCountMismatch
  · exact Yields.settle ⟨fun t ht => ((hbody hd).ok t ht).engineMove, (hbody hd).err⟩ (by simp [hj]) hrun

/-- Whatever instruction of a file is executed. -/
theorem exec_move {i : Instr} (hi : ctxOf i ≠ .cmd) (h : exec i s = .next t) : EngineMove s t := by
  cases i
  case nop | enc | dec | clr => exact absurd rfl hi
  case hdr12 v w hh =>
    simp only [exec, execHdr12] at h
    split at h
    · rename_i hj
      exact (parse12_yields (by simp [hj]) v w hh).settle (by simp [hj]) h
    · cases h
  case hdr3 hl w hh d f =>
    simp only [exec, execHdr3] at h
    split at h
    · rename_i hj
      exact (parse3_yields (by simp [hj]) hl w hh d f).settle (by simp [hj]) h
    · cases h
  case pal r g b =>
    simp only [exec, execPal] at h
    split at h
    · rename_i hd i hj
      exact (loadEntry_yields (by simp [hj]) hd i _).settle (by simp [hj]) h
    · cases h
  case pix r g b => exact inStream_move (body := fun _ => .ok (putPixels [⟨r, g, b⟩] 3 s)) (fun _ => .of_ok ⟨rfl, rfl⟩) h
  case run n r g b => exact inStream_move (fun hd => runRecord_yields (.of_ok trivial) n 4 hd) h
  case idx x =>
    simp only [exec, execIdx] at h
    refine inStream_move (fun _ => ?_) h
    split
    · exact (raisesCodes_paletteLookup _ s).error ‹_›
    · exact .of_ok ⟨rfl, rfl⟩
  case runi n x => exact inStream_move (fun hd => runRecord_yields (raisesCodes_paletteLookup _ s) n 2 hd) h
  case pack1 | pack2 | pack4 => exact inStream_move (fun hd => packRecord_yields _ _ hd) h
  case small | inter | bigr | bigg | bigb => exact inStream_move (fun _ => putBlock_yields reconstruct_isCode _) h
  case new => exact inStream_move (fun _ => putBlock_yields (fun _ he => by cases he) _) h
  case reservedV4 => exact inStream_move (fun _ => .of_err isCode_formatError) h

theorem runRecordAt_move {c : Ctx} (hc : c ≠ .cmd) (hs : s.job ≠ .none) (h : runRecordAt c s = .next t) : EngineMove s t := by
  obtain ⟨e, he, he', rfl⟩ | ⟨i, -, -, -, -, hctx, hx⟩ := runRecordAt_next h
  · exact .of_raise hs ⟨he, he'⟩
  · exact exec_move (hctx ▸ hc) hx

theorem endStream_yields (hs : s.job ≠ .none) (h : Hdr) : Yields (EngineMove s) (endStream h s) := by
  unfold endStream
  split_ifs
  · exact .of_ok (SameCommand.finishDec ⟨rfl, rfl⟩ hs h)
  · exact .of_err isCode_pixelCountMismatch

/-! ### The phases of `ENC` -/

theorem emit_yields (hu : SameCommand s u) (bs : List Byte) : Yields (SameCommand s) (emit bs u) where
  ok := by
    intro t ht
    obtain ⟨-, rfl⟩ := emit_ok ht
    exact ⟨hu.control, hu.host⟩
  err := by
    intro e he
    cases emit_error he
    exact isCode_bufferOverflow

theorem flushRun_yields (kind : RecordKind) : Yields (SameCommand s) (flushRun kind s) := by
  unfold flushRun
  split_ifs
  · exact .of_ok ⟨rfl, rfl⟩
  · exact emit_yields ⟨rfl, rfl⟩ _

theorem runStep_yields (kind : RecordKind) (same : Bool) (sym : Pixel) :
    Yields (SameCommand s) (runStep kind same sym s) := by
  have hflush := flushRun_yields (s := s) kind
  unfold runStep
  split
  · exact .of_ok ⟨rfl, rfl⟩
  split
  · exact hflush.error ‹_›
  · obtain ⟨hc, hh⟩ := hflush.ok _ ‹_›
    exact .of_ok ⟨hc, hh⟩

theorem packStep_yields (d i : Nat) : Yields (SameCommand s) (packStep d i s) := by
  unfold packStep
  dsimp only
  split_ifs
  · exact emit_yields (s := s) (u := setAcc 0 0 s) ⟨rfl, rfl⟩ _
  · exact .of_ok ⟨rfl, rfl⟩

theorem packFlush_yields : Yields (SameCommand s) (packFlush s) := by
  unfold packFlush
  split_ifs
  · exact .of_ok ⟨rfl, rfl⟩
  · exact emit_yields (s := s) (u := setAcc 0 0 s) ⟨rfl, rfl⟩ _

theorem encodePixel_yields (kind : RecordKind) (p : Pixel) : Yields (SameCommand s) (encodePixel kind p s) := by
  cases kind
  case pix => exact emit_yields ⟨rfl, rfl⟩ _
  case run => exact runStep_yields .run _ p
  case delta =>
    simp only [encodePixel]
    have hemit := emit_yields (s := s) ⟨rfl, rfl⟩ (encode (blockFor s.work.prev p))
    split
    · exact hemit.error ‹_›
    · obtain ⟨hc, hh⟩ := hemit.ok _ ‹_›
      exact .of_ok ⟨hc, hh⟩
  all_goals
    cases hi : paletteIndex p s
    case error =>
      rw [encodePixel_of_index_error rfl hi]
      exact (raisesCodes_paletteIndex p s).error hi
    simp only [encodePixel, packPixel, hi]
  case idx.ok => exact emit_yields ⟨rfl, rfl⟩ _
  case runi.ok => exact runStep_yields .runi _ _
  all_goals exact packStep_yields _ _

theorem flushStream_yields (kind : RecordKind) : Yields (SameCommand s) (flushStream kind s) := by
  cases kind
  case run | runi => exact flushRun_yields _
  case pack1 | pack2 | pack4 => exact packFlush_yields
  all_goals exact .of_ok ⟨rfl, rfl⟩

theorem encodeStep_yields (hs : s.job ≠ .none) (kind : RecordKind) : Yields (EngineMove s) (encodeStep kind s) := by
  unfold encodeStep
  split
  · split
    · exact (raisesCodes_readPixel _ s).error ‹_›
    split
    · exact (encodePixel_yields kind _).error ‹_›
    · obtain ⟨hc, hh⟩ := (encodePixel_yields kind _).ok _ ‹_›
      exact .of_ok (SameCommand.engineMove ⟨hc, hh⟩)
  · split
    · exact (flushStream_yields kind).error ‹_›
    · exact .of_ok (((flushStream_yields kind).ok _ ‹_›).finishEnc hs _ _)

theorem encStart_yields (hs : s.job ≠ .none) : Yields (EngineMove s) (encStart s) := by
  unfold encStart
  split
  · exact .of_err (by simp [IsCode])
  split
  · exact .of_err isCode_bufferOverflow
  split
  · exact .of_err (by simp [IsCode])
  split
  · exact .of_ok (SameCommand.setJob (s := s) (t := setPalSize 0 s) ⟨rfl, rfl⟩ hs (by simp))
  · exact .of_ok (SameCommand.setJob ⟨rfl, rfl⟩ hs (by simp))

theorem paletteStep_yields (hs : s.job ≠ .none) (kind : RecordKind) (i : Nat) :
    Yields (EngineMove s) (paletteStep kind i s) := by
  unfold paletteStep
  split
  · exact .of_ok (SameCommand.setJob ⟨rfl, rfl⟩ hs (by simp))
  split
  · exact (raisesCodes_readPixel i s).error ‹_›
  rename_i p _
  split
  · exact (raisesCodes_paletteScan s.pal p 0 s.palSize.toNat).error ‹_›
  · exact .of_ok (SameCommand.setJob ⟨rfl, rfl⟩ hs (by simp))
  split
  · exact .of_err (by simp [IsCode])
  · exact .of_ok (SameCommand.setJob (s := s) (t := setPalSize (s.palSize.toNat + 1) (writePal s.palSize.toNat p s)) ⟨rfl, rfl⟩ hs
      (by simp))

theorem headerStep_yields (hs : s.job ≠ .none) (kind : RecordKind) : Yields (EngineMove s) (headerStep kind s) := by
  have hemit := emit_yields (s := s) ⟨rfl, rfl⟩ (encode (headerInstr s))
  unfold headerStep
  split
  · exact hemit.error ‹_›
  · exact .of_ok ((hemit.ok _ ‹_›).setJob hs (by simp))

theorem paletteOutStep_yields (hs : s.job ≠ .none) (kind : RecordKind) (i : Nat) :
    Yields (EngineMove s) (paletteOutStep kind i s) := by
  unfold paletteOutStep
  split
  · split
    · exact .of_fault _
    rename_i p _
    have hemit := emit_yields (s := s) ⟨rfl, rfl⟩ (encode (.pal p.r p.g p.b))
    split
    · exact hemit.error ‹_›
    · exact .of_ok ((hemit.ok _ ‹_›).setJob hs (by simp))
  · exact .of_ok (SameCommand.setJob ⟨rfl, rfl⟩ hs (by simp))

/-! ### Every step -/

theorem engineStep_move (h : engineStep s = .next t) : EngineMove s t := by
  unfold engineStep at h
  split at h
  case h_1 => cases h; exact SameCommand.engineMove ⟨rfl, rfl⟩
  all_goals
    have hs : s.job ≠ .none := by simp [*]
  case h_2 =>
    unfold headerParseStep at h
    split_ifs at h
    · exact runRecordAt_move (by simp) hs h
    · cases h; exact .of_raise hs isCode_bufferOverflow
  case h_3 => exact runRecordAt_move (by simp) hs h
  case h_4 =>
    unfold decodeStep at h
    split_ifs at h
    · exact runRecordAt_move (by simp) hs h
    · exact (endStream_yields hs _).settle hs h
  case h_5 => exact (encStart_yields hs).settle hs h
  case h_6 => exact (paletteStep_yields hs _ _).settle hs h
  case h_7 => exact (headerStep_yields hs _).settle hs h
  case h_8 => exact (paletteOutStep_yields hs _ _).settle hs h
  case h_9 => exact (encodeStep_yields hs _).settle hs h

theorem exec_command_move {rst : Prop} {op : BitVec 2} (h : exec (decodeCmd op) s = .next t) :
    ControlMove rst (control s) (control t) := by
  have hunless : ∀ {act : State → State}, (s.status ≠ .busy → ControlMove rst (control s) (control (act s))) →
      unlessBusy act s = .next t → ControlMove rst (control s) (control t) := by
    intro act hact hu
    unfold unlessBusy at hu
    split_ifs at hu with hb <;> cases hu
    · exact .kept _
    · exact hact hb
  unfold decodeCmd at h
  split_ifs at h
  · exact hunless (act := startCommand .encStart) (fun hb => .start hb (by simp)) h
  · exact hunless (act := startCommand .decHeader) (fun hb => .start hb (by simp)) h
  · exact hunless (act := clearCommand) (fun hb => .clear hb) h
  · exact hunless (act := id) (fun _ => .kept _) h

theorem readCell_move {α : Type} {rst : Prop} {m : Space} {mem : Memory α} {cap : Option Nat} {resp : α → Resp} {a : Nat}
    (h : readCell m mem cap resp a s = .next t) : ControlMove rst (control s) (control t) := by
  unfold readCell at h
  split_ifs at h
  split at h <;> cases h
  exact .kept _

theorem hostAccess_move {op : HostOp} (h : hostAccess op s = .next t) : ControlMove (op = .rst) (control s) (control t) := by
  unfold hostAccess at h
  split_ifs at h
  cases op
  case tick | wait => cases h; exact .kept _
  case readReg off =>
    simp only [portAccess, portReadReg] at h
    split at h <;> cases h
    exact .kept _
  case writeReg off v =>
    simp only [portAccess] at h
    split_ifs at h
    · exact exec_command_move (s := answer .ack s) h
    · unfold portWriteReg at h
      split at h <;> cases h
      rename_i u hu
      rw [regWrite_some hu]
      exact .kept _
  case readIbuf | readObuf | readPal => exact readCell_move h
  case writeIbuf =>
    simp only [portAccess, portWriteIbuf] at h
    split_ifs at h
    cases h; exact .kept _
  case pixelRead =>
    simp only [portAccess, portPixelRead] at h
    split_ifs at h
    · exact readCell_move h
    · cases h; exact .kept _
  case pixelWrite =>
    simp only [portAccess, portPixelWrite] at h
    split_ifs at h <;> cases h
    · exact .kept _
    · exact .kept _
  case rst => cases h; exact .reset rfl _

/-- Everything one step of the machine can do to the control state. -/
theorem step_move (h : step s = .next t) : ControlMove (s.host.head? = some .rst) (control s) (control t) := by
  unfold step machineStep at h
  split at h
  · exact (engineStep_move h).move.mono False.elim
  · exact (engineStep_move (s := setHost _ s) h).move.mono False.elim
  · split_ifs at h
    · exact (engineStep_move h).move.mono False.elim
    · exact (hostAccess_move (s := setHost _ s) h).mono (fun e => nomatch e)
  · rename_i op rest _ _ hh
    exact (hostAccess_move (s := setHost rest s) h).mono fun e => by rw [hh, e]; rfl

end

/-- Settles O50: each move of the control state keeps it in agreement. -/
theorem stepKeepsControl : Obligations.StepKeepsControl := fun s t hi ht =>
  (controlInv_iff t).2 ((step_move ht).agrees ((controlInv_iff s).1 hi))

/-- Settles O53: each move of the control state but `rst` is a listed transition. -/
theorem statusTransitions : Obligations.StatusTransitions := fun s _ hi hr ht =>
  (step_move ht).statusMay ((controlInv_iff s).1 hi) hr

end Sys2Proof.Machine
end

section
/-! The commands, the taking of an error, the reset state, and the register block of the host's port. -/

namespace Sys2Proof.Machine

/-! ### The next step, by the head of the host's accesses -/

section
variable {s : State} {op : HostOp} {ops : List HostOp}

theorem step_of_no_host (hh : s.host = []) : step s = engineStep s := by
  unfold step machineStep
  rw [hh]

theorem step_of_tick (hh : s.host = .tick :: ops) : step s = engineStep (setHost ops s) := by
  unfold step machineStep
  rw [hh]

theorem step_of_access (hh : s.host = op :: ops) (ht : op ≠ .tick) (hw : op ≠ .wait) :
    step s = hostAccess op (setHost ops s) := by
  unfold step machineStep
  rw [hh]
  cases op
  case tick => exact absurd rfl ht
  case wait => exact absurd rfl hw
  all_goals rfl

theorem hostAccess_of_allowed (h : allowedWhileBusy op = true) : hostAccess op s = portAccess op s := by
  unfold hostAccess
  rw [if_neg (by simp [h])]

theorem hostAccess_of_not_busy (h : s.status ≠ .busy) : hostAccess op s = portAccess op s := by
  unfold hostAccess
  rw [if_neg (by simp [h])]

theorem hostAccess_of_busy (h : s.status = .busy) (ha : allowedWhileBusy op = false) :
    hostAccess op s = .fault .hostAccessWhileBusy := if_pos ⟨h, ha⟩

end

/-! ### Commands -/

theorem unlessBusy_of_busy {act : State → State} {s : State} (h : s.status = .busy) : unlessBusy act s = .next s := if_pos h

theorem unlessBusy_of_not_busy {act : State → State} {s : State} (h : s.status ≠ .busy) :
    unlessBusy act s = .next (act s) := if_neg h

/-- The command of the low two bits of a word (R11, R12). -/
theorem decodeCmd_setWidth {v : Word} {i : Instr}
    (h : (v.toNat % 4 = 0 ∧ i = .nop) ∨ (v.toNat % 4 = 1 ∧ i = .enc) ∨ (v.toNat % 4 = 2 ∧ i = .dec) ∨
      (v.toNat % 4 = 3 ∧ i = .clr)) : decodeCmd (v.setWidth 2) = i := by
  have hlow : ∀ k < 4, v.toNat % 4 = k → v.setWidth 2 = BitVec.ofNat 2 k := fun k hk hv => by
    refine BitVec.eq_of_toNat_eq ?_
    simp only [BitVec.toNat_setWidth, BitVec.toNat_ofNat]
    omega
  rcases h with ⟨hv, rfl⟩ | ⟨hv, rfl⟩ | ⟨hv, rfl⟩ | ⟨hv, rfl⟩
  all_goals
    rw [hlow _ (by decide) hv]
    rfl

/-- Settles O17: a `CMD` write is allowed in every state. -/
theorem stepRunsCommand : Obligations.StepRunsCommand := by
  intro s v ops i hh hi
  rw [step_of_access hh (by simp) (by simp), hostAccess_of_allowed rfl]
  show exec (decodeCmd (v.setWidth 2)) (answer .ack (setHost ops s)) = _
  rw [decodeCmd_setWidth hi]

/-- Settles O29: all four commands are guarded by `BUSY`, and `NOP` does nothing behind the guard. -/
theorem nopClrResult : Obligations.NopClrResult := by
  refine fun s => ⟨?_, fun hb => ⟨unlessBusy_of_busy hb, unlessBusy_of_busy hb, unlessBusy_of_busy hb⟩,
    fun hb => ⟨clearCommand s, unlessBusy_of_not_busy hb, rfl, rfl, rfl⟩⟩
  by_cases hb : s.status = .busy
  · exact unlessBusy_of_busy hb
  · exact unlessBusy_of_not_busy hb

theorem registersKept_startCommand (j : Job) (s : State) : RegistersKept s (startCommand j s) := by constructor <;> rfl

theorem memoriesKept_startCommand (j : Job) (s : State) : MemoriesKept s (startCommand j s) := by
  constructor <;> intro <;> rfl

/-- Settles O30: outside `BUSY` the command is `startCommand` of its first phase. -/
theorem startResult : Obligations.StartResult := by
  intro s i j hb hi
  have hexec : exec i s = .next (startCommand j s) := by
    rcases hi with ⟨rfl, rfl⟩ | ⟨rfl, rfl⟩ <;> exact unlessBusy_of_not_busy hb
  exact ⟨startCommand j s, hexec, rfl, rfl, rfl, rfl, rfl, rfl, rfl, rfl, rfl, rfl, rfl, registersKept_startCommand j s,
    memoriesKept_startCommand j s, rfl⟩

/-! ### The first step of `ENC` -/

theorem encStart_of_illegal {s : State} (h : ¬ legalConfig s.version s.depth) : encStart s = .error (.err .invalidConfig) :=
  if_pos h

theorem encStart_of_not_fits {s : State} (h : legalConfig s.version s.depth) (hfit : fits (pixelCount s) s.caps.pmem = false) :
    encStart s = .error (.err .bufferOverflow) := by
  unfold encStart
  rw [if_neg (not_not.2 h), if_pos (by simp [hfit])]

theorem encStart_of_legal {s : State} {kind : RecordKind} (h : legalConfig s.version s.depth)
    (hfit : fits (pixelCount s) s.caps.pmem = true) (hk : Selects s.version s.depth s.rle kind) :
    encStart s = .ok (if usesPalette s.version s.depth then setJob (.encPalette kind 0) (setPalSize 0 s)
      else setJob (.encHeader kind) s) := by
  unfold encStart
  rw [if_neg (not_not.2 h), if_neg (by simp [hfit]), selects_streamKind hk]
  dsimp only
  split_ifs <;> rfl

/-- Settles O37: the two checks in their order, and every legal configuration has a row of the selection. -/
theorem encChecks : Obligations.EncChecks := by
  intro s hh hj
  have hstep : step s = settle s (encStart s) := by
    rw [step_of_no_host hh, engineStep, hj]
  refine ⟨fun hl => ?_, fun hl hfit => ?_, fun hl hfit => ?_⟩
  · rw [hstep, encStart_of_illegal hl, settle_err]
  · rw [hstep, encStart_of_not_fits hl hfit, settle_err]
  · obtain ⟨kind, hk⟩ := selects_of_legal s.rle hl
    exact ⟨kind, hk, by rw [hstep, encStart_of_legal hl hfit hk, settle_ok]⟩

/-! ### Taking an error -/

theorem loseOutputs_of_decoding {s : State} (h : decoding s.job = true) : loseOutputs s = loseDec s := by
  unfold loseOutputs
  cases hj : s.job
  case decHeader | decPalette | decStream => rfl
  all_goals simp [decoding, hj] at h

theorem loseOutputs_of_encoding {s : State} (h : encoding s.job = true) : loseOutputs s = loseEnc s := by
  unfold loseOutputs
  cases hj : s.job
  case none | decHeader | decPalette | decStream => simp [encoding, hj] at h
  all_goals rfl

theorem raise_of_decoding {s : State} (h : decoding s.job = true) (e : ErrKind) :
    raise e s = { retire (loseDec s) with status := .error, err := e } := by
  rw [raise, loseOutputs_of_decoding h]

theorem raise_of_encoding {s : State} (h : encoding s.job = true) (e : ErrKind) :
    raise e s = { retire (loseEnc s) with status := .error, err := e } := by
  rw [raise, loseOutputs_of_encoding h]

/-- Settles O43: what becomes unspecified is `loseDec` or `loseEnc`, and neither touches what the command only reads. -/
theorem raiseFrame : Obligations.RaiseFrame := by
  rintro s _ e rfl
  refine ⟨rfl, rfl, rfl, raise_inLen e s, fun a => by rw [raise_ibuf], fun hd => ?_, fun he => ?_⟩
  · rw [raise_of_decoding hd]
    exact ⟨rfl, fun _ => rfl⟩
  · rw [raise_of_encoding he]
    exact ⟨rfl, rfl, rfl, rfl, rfl, fun _ => rfl⟩

/-! ### The reset state, and a machine without a command -/

theorem engineStep_of_no_job {s : State} (hj : s.job = .none) : engineStep s = .next s := by
  unfold engineStep
  rw [hj]

/-- Settles O44: without a command in progress an engine step changes nothing. -/
theorem resetValues : Obligations.ResetValues := by
  refine ⟨⟨State.reset, rfl, ?_⟩, fun s hj => ⟨engineStep_of_no_job hj, fun hh => ?_, fun ops hh => ?_⟩⟩
  · refine ⟨rfl, rfl, rfl, rfl, rfl, rfl, rfl, rfl, rfl, rfl, rfl, rfl, rfl, rfl, rfl, rfl, rfl, rfl, rfl, rfl, rfl,
      fun _ => rfl, fun _ => rfl, fun _ => rfl, fun _ => rfl⟩
  · rw [step_of_no_host hh, engineStep_of_no_job hj]
  · rw [step_of_tick hh, engineStep_of_no_job (s := setHost ops s) hj]

theorem storeInv_reset : StoreInv State.reset where
  ibuf := .nil _
  obuf := .nil _
  pmem := .nil _
  pal := .nil _
  palSize := Nat.zero_le _
  accN := Nat.zero_le _
  ibufSize := fun _ hc => nomatch hc

/-- Settles O52: the memories are empty and no command runs. -/
theorem resetLegal : Obligations.ResetLegal :=
  engineInv_of_no_job storeInv_reset rfl (by simp [State.reset]) (by simp [State.reset]) (by simp [State.reset])

/-! ### Registers -/

/-- A field with zeros above it is the word of its value (R11). -/
theorem setWidth_eq_of_toNat {n : Nat} {x : BitVec n} {w : Word} (hn : n ≤ 32) (h : w.toNat = x.toNat) :
    x.setWidth 32 = w :=
  BitVec.eq_of_toNat_eq (by rw [BitVec.toNat_setWidth_of_le hn, h])

theorem statusCode_setWidth {st : Status} {w : Word}
    (h : (st, w) ∈ [(Status.idle, (0 : Word)), (.busy, 1), (.done, 2), (.error, 3)]) : (statusCode st).setWidth 32 = w := by
  simp only [List.mem_cons, List.not_mem_nil, or_false, Prod.mk.injEq] at h
  rcases h with ⟨rfl, rfl⟩ | ⟨rfl, rfl⟩ | ⟨rfl, rfl⟩ | ⟨rfl, rfl⟩ <;> rfl

theorem errCode_setWidth {e : ErrKind} {w : Word}
    (h : (e, w) ∈ [(ErrKind.none, (0 : Word)), (.channelOutOfRange, 1), (.pixelCountMismatch, 2), (.indexOutOfBounds, 3),
      (.formatError, 4), (.paletteTooLarge, 5), (.invalidConfig, 6), (.bufferOverflow, 7)]) :
    (errCode e).setWidth 32 = w := by
  simp only [List.mem_cons, List.not_mem_nil, or_false, Prod.mk.injEq] at h
  rcases h with ⟨rfl, rfl⟩ | ⟨rfl, rfl⟩ | ⟨rfl, rfl⟩ | ⟨rfl, rfl⟩ | ⟨rfl, rfl⟩ | ⟨rfl, rfl⟩ | ⟨rfl, rfl⟩ | ⟨rfl, rfl⟩ <;> rfl

section
variable {s : State} {off : Nat} {ops : List HostOp}

theorem step_readReg {w : Word} (hb : s.status ≠ .busy) (hh : s.host = .readReg off :: ops) (hr : regRead off s = some w) :
    step s = .next (answer (.word w) (setHost ops s)) := by
  have hr' : regRead off (setHost ops s) = some w := hr
  rw [step_of_access hh (by simp) (by simp), hostAccess_of_not_busy (s := setHost ops s) hb]
  simp only [portAccess, portReadReg, hr']

theorem regWrite_setHost {v : Word} {t : State} (h : regWrite off v s = some t) :
    regWrite off v (setHost ops s) = some (setHost ops t) := by
  unfold regWrite at h ⊢
  split at h <;> cases h <;> rfl

theorem step_writeReg {v : Word} {t : State} (hb : s.status ≠ .busy) (hh : s.host = .writeReg off v :: ops) (h0 : off ≠ 0)
    (hw : regWrite off v s = some t) : step s = .next (answer .ack (setHost ops t)) := by
  rw [step_of_access hh (by simp) (by simp), hostAccess_of_not_busy (s := setHost ops s) hb]
  simp only [portAccess, if_neg h0, portWriteReg, regWrite_setHost hw]

end

/-- Settles O45, offset by offset: a read finds the field's word in `regRead`, a write its update in `regWrite`. -/
theorem registerAccess : Obligations.RegisterAccess := by
  intro s off v ops hb
  refine ⟨fun w hh h => step_readReg hb hh ?_, fun t hh h => ?_⟩
  · have hfield : ∀ {n : Nat} {x : BitVec n}, n ≤ 32 → w.toNat = x.toNat → some (x.setWidth 32) = some w :=
      fun hn hx => congrArg some (setWidth_eq_of_toNat hn hx)
    rcases h with ⟨rfl, rfl⟩ | ⟨rfl, h⟩ | ⟨rfl, h⟩ | ⟨rfl, h⟩ | ⟨rfl, h⟩ | ⟨rfl, h⟩ | ⟨rfl, h⟩ | ⟨rfl, h⟩ | ⟨rfl, rfl⟩ |
      ⟨rfl, rfl⟩ | ⟨rfl, h⟩ | ⟨rfl, h⟩ | ⟨rfl, rfl⟩
    · rfl
    · exact congrArg some (statusCode_setWidth h)
    · exact congrArg some (errCode_setWidth h)
    · exact hfield (by decide) h
    · exact hfield (by decide) h
    · exact hfield (by decide) h
    · exact hfield (by decide) h
    · exact hfield (by decide) h
    · rfl
    · rfl
    · exact hfield (by decide) h
    · exact hfield (by decide) h
    · rfl
  · rcases h with ⟨rfl, rfl⟩ | ⟨rfl, rfl⟩ | ⟨rfl, rfl⟩ | ⟨rfl, rfl⟩ | ⟨rfl, rfl⟩ | ⟨rfl, rfl⟩ |
      ⟨rfl | rfl | rfl | rfl | rfl | rfl, rfl⟩
    all_goals exact step_writeReg hb hh (by decide) rfl

/-- Settles O47: the accesses named are those that `allowedWhileBusy` refuses. -/
theorem busyAccess : Obligations.BusyAccess := by
  intro s op ops hb hh
  refine ⟨fun h => ?_, ?_⟩
  · have hop : allowedWhileBusy op = false ∧ op ≠ .tick ∧ op ≠ .wait := by
      rcases h with ⟨off, rfl, hoff⟩ | ⟨off, v, rfl, hoff⟩ | ⟨a, rfl⟩ | ⟨a, v, rfl⟩ | ⟨a, rfl⟩ | ⟨i, rfl⟩ | ⟨x, y, rfl⟩ |
        ⟨x, y, p, rfl⟩
      case inl | inr.inl => simp [allowedWhileBusy, hoff]
      all_goals simp [allowedWhileBusy]
    obtain ⟨ha, ht, hw⟩ := hop
    rw [step_of_access hh ht hw, hostAccess_of_busy (s := setHost ops s) hb ha]
  · rintro rfl
    rw [step_of_access hh (by simp) (by simp), hostAccess_of_allowed rfl]
    simp only [portAccess, portReadReg, regRead, setHost_status, hb]
    rfl

end Sys2Proof.Machine
end

section
/-! What a command delivers is a function of its inputs: `DEC`, from the refinement of the function level. -/

namespace Sys2Proof.Machine

/-! ### Runs that no host access disturbs -/

theorem runSteps_add {n : Nat} {s t : State} (h : runSteps n s = .next t) (m : Nat) :
    runSteps (n + m) s = runSteps m t := by
  induction n generalizing s with
  | zero => cases h; rw [Nat.zero_add]
  | succ n ih =>
    rw [runSteps] at h
    rw [Nat.succ_add, runSteps]
    cases hs : step s with
    | next u => rw [hs] at h; exact ih h
    | fault f => rw [hs] at h; cases h
    | refused x => rw [hs] at h; cases h

theorem runSteps_of_no_job {s : State} (hj : s.job = .none) (hh : s.host = []) (n : Nat) : runSteps n s = .next s := by
  induction n with
  | zero => rfl
  | succ n ih =>
    rw [runSteps, step_of_no_host hh, engineStep_of_no_job hj]
    exact ih

/-- Along such a run the control state stays in agreement. -/
theorem controlInv_of_runSteps {n : Nat} {s t : State} (hh : s.host = []) (hc : ControlInv s)
    (h : runSteps n s = .next t) : t.host = [] ∧ ControlInv t := by
  induction n generalizing s with
  | zero => cases h; exact ⟨hh, hc⟩
  | succ n ih =>
    rw [runSteps, step_of_no_host hh] at h
    split at h
    · rename_i u hu
      have hu' := engineStep_move hu
      exact ih (hu'.host.trans hh) ((controlInv_iff u).2 (hu'.move.agrees ((controlInv_iff s).1 hc))) h
    · cases h
    · cases h

/-- However many steps are counted, the command ends in one state. -/
theorem ended_unique {n m : Nat} {s t u : State} (hh : s.host = []) (hc : ControlInv s) (ht : runSteps n s = .next t)
    (hu : runSteps m s = .next u) (htb : t.status ≠ .busy) (hub : u.status ≠ .busy) : t = u := by
  wlog hnm : n ≤ m generalizing n m t u
  · exact (this hu ht hub htb (by omega)).symm
  obtain ⟨k, rfl⟩ := Nat.exists_eq_add_of_le hnm
  obtain ⟨hth, htc⟩ := controlInv_of_runSteps hh hc ht
  have hj : t.job = .none := not_not.1 (htc.busy_iff.not.1 htb)
  rw [runSteps_add ht, runSteps_of_no_job hj hth] at hu
  cases hu
  rfl

/-- So whatever end of the command is reached, it is the one with the outcome known. -/
theorem EndsWith.delivers {α : Type} {D : α → State → Prop} {r : Except ErrKind α} {n : Nat} {s t : State}
    (he : EndsWith D r s) (hs : Alone s) (hj : s.job ≠ .none) (ht : runSteps n s = .next t) (hb : t.status ≠ .busy) :
    Delivers D r t := by
  obtain ⟨m, u, hu, hub, hdel⟩ := he
  rwa [ended_unique hs.host (Running.control ⟨hs.status, hs.err⟩ hj) ht hu hb hub]

/-! ### `DEC` -/

theorem Memory.read_eq_of_readRange {α : Type} {m m' : Memory α} {n : Nat} {xs : List α} (h : m.readRange 0 n = some xs)
    (h' : m'.readRange 0 n = some xs) : ∀ i < n, m.read i = m'.read i := fun i hi => by
  simpa using (Memory.readRange_getElem h hi).trans (Memory.readRange_getElem h' hi).symm

/-- The parts of a state that a `DEC` delivers (R233) are the same. -/
structure SameDecoded (s t : State) : Prop where
  version : s.version = t.version
  width : s.width = t.width
  height : s.height = t.height
  hdrLen : s.hdrLen = t.hdrLen
  depth : s.depth = t.depth
  rle : s.rle = t.rle
  palSize : s.palSize = t.palSize
  image : ∀ i < pixelCount s, s.pmem.read i = t.pmem.read i
  palette : ∀ i < s.palSize.toNat, s.pal.read i = t.pal.read i

/-- What is delivered for one decoded file is determined. -/
theorem DecDelivered.same {d : Decoded} {s t : State} (hs : DecDelivered d s) (ht : DecDelivered d t) : SameDecoded s t := by
  obtain ⟨-, -, hv, hw, hh, hl, hd, hr, hk, hpx, hpal⟩ := hs
  obtain ⟨-, -, hv', hw', hh', hl', hd', hr', hk', hpx', hpal'⟩ := ht
  have hcount : pixelCount s = d.hdr.pixels := by rw [pixelCount, hw, hh, Hdr.pixels]
  exact
    { version := hv.trans hv'.symm, width := hw.trans hw'.symm, height := hh.trans hh'.symm, hdrLen := hl.trans hl'.symm
      depth := hd.trans hd'.symm, rle := BitVec.eq_of_toNat_eq (hr.trans hr'.symm)
      palSize := BitVec.eq_of_toNat_eq (hk.trans hk'.symm)
      image := hcount ▸ Memory.read_eq_of_readRange hpx hpx', palette := hk ▸ Memory.read_eq_of_readRange hpal hpal' }

/-- The end of `DEC` has the outcome of the function level, whenever it is reached. -/
theorem dec_delivers {s u t : State} {B : List Byte} {n : Nat} (hb : s.status ≠ .busy) (hh : s.host = [])
    (hB : fits s.inLen.toNat s.caps.ibuf = true → s.ibuf.readRange 0 s.inLen.toNat = some B) (hu : exec .dec s = .next u)
    (ht : runSteps n u = .next t) (htb : t.status ≠ .busy) :
    Delivers DecDelivered
      (if fits s.inLen.toNat s.caps.ibuf then decodeWithin s.caps B else .error .bufferOverflow) t := by
  cases hu.symm.trans (unlessBusy_of_not_busy hb)
  exact (dec_ends hh hB).delivers ⟨rfl, rfl, hh⟩ (by simp) ht htb

/-- Settles O58: the outcome of the function level speaks of the file and the capacities only. -/
theorem decPure : Obligations.DecPure := by
  intro s₁ s₂ u₁ u₂ t₁ t₂ B n₁ n₂ hb₁ hb₂ hh₁ hh₂ hcaps hlen hB hu₁ hu₂ ht₁ ht₂ hend₁ hend₂
  have hdel₁ := dec_delivers hb₁ hh₁ (fun hfit => (hB hfit).1) hu₁ ht₁ hend₁
  have hdel₂ := dec_delivers hb₂ hh₂ (fun hfit => (hB (by rwa [hcaps, hlen])).2) hu₂ ht₂ hend₂
  rw [← hcaps, ← hlen] at hdel₂
  generalize (if fits s₁.inLen.toNat s₁.caps.ibuf then decodeWithin s₁.caps B else .error .bufferOverflow) = r
    at hdel₁ hdel₂
  cases r with
  | error e =>
    obtain ⟨hs₁, he₁⟩ := hdel₁
    obtain ⟨hs₂, he₂⟩ := hdel₂
    exact ⟨hs₁.trans hs₂.symm, he₁.trans he₂.symm, fun hd => by simp [hs₁] at hd⟩
  | ok d =>
    have hsame := DecDelivered.same hdel₁ hdel₂
    obtain ⟨hs₁, he₁, -⟩ := hdel₁
    obtain ⟨hs₂, he₂, -⟩ := hdel₂
    exact ⟨hs₁.trans hs₂.symm, he₁.trans he₂.symm, fun _ => ⟨hsame.version, hsame.width, hsame.height, hsame.hdrLen,
      hsame.depth, hsame.rle, hsame.palSize, hsame.image, hsame.palette⟩⟩

end Sys2Proof.Machine
end

section
/-! What a command delivers is a function of its inputs: `ENC`, by two runs in lock-step. The refinement of the function
level does not speak of `OUT_LEN` beyond 32 bits, so two runs are compared step by step. -/

namespace Sys2Proof.Machine

/-! ### The working registers that the encoder looks at -/

/-- The working registers, but for `RUN_VAL` while no run is open, which R28 leaves and nothing reads. -/
def visibleWork (w : Work) : Work := { w with runVal := if w.runCnt = 0 then Pixel.black else w.runVal }

theorem visibleWork_of_open {w : Work} (h : w.runCnt ≠ 0) : visibleWork w = w := by
  unfold visibleWork
  rw [if_neg h]

theorem visibleWork_of_closed {w : Work} (h : w.runCnt = 0) : visibleWork w = { w with runVal := Pixel.black } := by
  unfold visibleWork
  rw [if_pos h]

theorem runOutput_of_closed {kind : RecordKind} {same : Bool} {w : Work} (h : w.runCnt = 0) : runOutput kind same w = [] := by
  simp [runOutput, openRunBytes, runGoesOn, h]

theorem runWork_of_closed {same : Bool} {sym : Pixel} {w : Work} (h : w.runCnt = 0) :
    runWork same sym w = { w with runVal := sym, runCnt := 1 } := by
  simp [runWork, runGoesOn, h]

theorem pixelOutput_visibleWork (kind : RecordKind) (j : Nat) (p : Pixel) (w : Work) :
    pixelOutput kind j p (visibleWork w) = pixelOutput kind j p w := by
  by_cases h : w.runCnt = 0
  · cases kind
    case run | runi =>
      simp only [pixelOutput]
      rw [runOutput_of_closed h, runOutput_of_closed (w := visibleWork w) h]
    all_goals rfl
  · rw [visibleWork_of_open h]

theorem pixelWork_visibleWork (kind : RecordKind) (j : Nat) (p : Pixel) (w : Work) :
    visibleWork (pixelWork kind j p (visibleWork w)) = visibleWork (pixelWork kind j p w) := by
  by_cases h : w.runCnt = 0
  · rw [visibleWork_of_closed h]
    cases kind
    case run | runi =>
      simp only [pixelWork]
      rw [runWork_of_closed h, runWork_of_closed (w := { w with runVal := Pixel.black }) h]
    case pack1 | pack2 | pack4 =>
      simp only [pixelWork, packWork]
      split_ifs <;> simp [visibleWork, packedAcc, h]
    all_goals simp [pixelWork, visibleWork, h]
  · rw [visibleWork_of_open h]

theorem flushOutput_visibleWork (kind : RecordKind) (w : Work) : flushOutput kind (visibleWork w) = flushOutput kind w := by
  by_cases h : w.runCnt = 0
  · cases kind
    case run | runi => exact (if_pos h).trans (if_pos h).symm
    all_goals rfl
  · rw [visibleWork_of_open h]

/-! ### Two runs of `ENC` -/

/-- Two states of `ENC` with the same image, configuration and capacities, that have written the same file so far. -/
structure Twins (s t : State) : Prop where
  alone : Alone s
  alone' : Alone t
  config : configOf t = configOf s
  width : t.width = s.width
  height : t.height = s.height
  caps : t.caps = s.caps
  work : visibleWork t.work = visibleWork s.work
  image : ∀ i < pixelCount s, t.pmem.read i = s.pmem.read i
  file : ∀ a < s.work.wp, t.obuf.read a = s.obuf.read a
  room : fits s.work.wp s.caps.obuf = true

/-- The palettes are the same. -/
structure SharedPalette (s t : State) : Prop where
  size : t.palSize = s.palSize
  entries : ∀ i < s.palSize.toNat, t.pal.read i = s.pal.read i

/-- Whether the phase and the configuration make an `ENC` look at the palette. -/
def readsPalette (v d : Byte) : Job → Prop
  | .encPalette _ _ => True
  | .encHeader kind => usesPalette v d ∨ indexed kind = true
  | .encPalOut kind _ => usesPalette v d ∨ indexed kind = true
  | .encStream kind => usesPalette v d ∨ indexed kind = true
  | _ => False

/-- Two runs of `ENC` in the same phase. They share the palette once a phase looks at it: R28 leaves `PAL_SIZE` and `PAL`
of the two states as they were. -/
structure InStep (s t : State) : Prop where
  twins : Twins s t
  job : t.job = s.job
  encoding : encoding s.job = true
  palette : readsPalette s.version s.depth s.job → SharedPalette s t

/-- The parts of a state that an `ENC` delivers (R197) are the same. -/
structure SameEncoded (s t : State) : Prop where
  outLen : s.outLen = t.outLen
  hdrLen : s.hdrLen = t.hdrLen
  palSize : s.palSize = t.palSize
  file : ∀ a < s.outLen.toNat, s.obuf.read a = t.obuf.read a
  palette : ∀ i < s.palSize.toNat, s.pal.read i = t.pal.read i

/-- Two commands ended alike. -/
structure SameEnd (s t : State) : Prop where
  ended : s.status ≠ .busy
  status : s.status = t.status
  err : s.err = t.err
  encoded : s.status = .done → SameEncoded s t

/-- Two results of one operation in two runs: the runs go on in step, or end alike, or stop for the same reason. -/
inductive Alike : Except Stop State → Except Stop State → Prop
  | goOn {s t : State} (h : InStep s t) : Alike (.ok s) (.ok t)
  | done {s t : State} (h : SameEnd s t) : Alike (.ok s) (.ok t)
  | stop (e : Stop) : Alike (.error e) (.error e)

theorem Alike.settle {s t s' t' : State} {r r' : Except Stop State} (h : Alike r r') (hs : settle s r = .next s')
    (ht : settle t r' = .next t') : InStep s' t' ∨ SameEnd s' t' := by
  cases h with
  | goOn h => cases hs; cases ht; exact .inl h
  | done h => cases hs; cases ht; exact .inr h
  | stop e =>
    cases e with
    | err e => cases hs; cases ht; exact .inr ⟨by simp, rfl, rfl, by simp⟩
    | fault f => cases hs

section
variable {s t : State}

theorem Alone.of_same (h : Alone s) (hs : t.status = s.status) (he : t.err = s.err) (hh : t.host = s.host) : Alone t :=
  ⟨hs.trans h.status, he.trans h.err, hh.trans h.host⟩

theorem Twins.version (h : Twins s t) : t.version = s.version := congrArg EncConfig.version h.config
theorem Twins.depth (h : Twins s t) : t.depth = s.depth := congrArg EncConfig.depth h.config
theorem Twins.rle (h : Twins s t) : t.rle = s.rle := congrArg EncConfig.rle h.config
theorem Twins.wp (h : Twins s t) : t.work.wp = s.work.wp := congrArg (fun v => v.wp) h.work
theorem Twins.rp (h : Twins s t) : t.work.rp = s.work.rp := congrArg (fun v => v.rp) h.work
theorem Twins.pix (h : Twins s t) : t.work.pix = s.work.pix := congrArg (fun v => v.pix) h.work
theorem Twins.pixelCount (h : Twins s t) : pixelCount t = pixelCount s := by
  rw [Machine.pixelCount, Machine.pixelCount, h.width, h.height]

theorem Twins.room' (h : Twins s t) : fits t.work.wp t.caps.obuf = true := by rw [h.wp, h.caps]; exact h.room

theorem Twins.setJob (h : Twins s t) (j : Job) : Twins (setJob j s) (setJob j t) :=
  { h with alone := h.alone.of_same rfl rfl rfl, alone' := h.alone'.of_same rfl rfl rfl }

theorem Twins.setPalSize (h : Twins s t) (k : Nat) : Twins (setPalSize k s) (setPalSize k t) :=
  { h with alone := h.alone.of_same rfl rfl rfl, alone' := h.alone'.of_same rfl rfl rfl }

theorem Twins.writePal (h : Twins s t) (i : Nat) (p : Pixel) : Twins (writePal i p s) (writePal i p t) :=
  { h with alone := h.alone.of_same rfl rfl rfl, alone' := h.alone'.of_same rfl rfl rfl }

theorem Twins.nextPixel (h : Twins s t) : Twins (nextPixel s) (nextPixel t) :=
  { h with
    alone := h.alone.of_same rfl rfl rfl, alone' := h.alone'.of_same rfl rfl rfl
    work := congrArg (fun w : Work => { w with pix := w.pix + 1 }) h.work }

theorem Twins.encoderMove (h : Twins s t) {bs : List Byte} (hfit : fits (s.work.wp + bs.length) s.caps.obuf = true)
    {w w' : Work} (hw : visibleWork w' = visibleWork w) : Twins (encoderMove bs w s) (encoderMove bs w' t) where
  alone := h.alone.of_same rfl rfl rfl
  alone' := h.alone'.of_same rfl rfl rfl
  config := h.config
  width := h.width
  height := h.height
  caps := h.caps
  work := by
    rw [encoderMove_work, encoderMove_work, h.wp, h.rp, h.pix]
    exact congrArg (fun v : Work => { v with wp := s.work.wp + bs.length, rp := s.work.rp, pix := s.work.pix }) hw
  image := h.image
  file := by
    intro a ha
    have ha' : a < s.work.wp + bs.length := ha
    rw [encoderMove_obuf, encoderMove_obuf, h.wp, Memory.read_writeRange, Memory.read_writeRange]
    split_ifs with hin
    · rfl
    · exact h.file a (by omega)
  room := hfit

theorem Twins.emitBytes (h : Twins s t) {bs : List Byte} (hfit : fits (s.work.wp + bs.length) s.caps.obuf = true) :
    Twins (emitBytes bs s) (emitBytes bs t) :=
  h.encoderMove hfit h.work

/-! ### What the encoder reads -/

theorem readPixel_congr {i : Nat} (h : t.pmem.read i = s.pmem.read i) : readPixel i t = readPixel i s := by
  unfold readPixel
  rw [h]

theorem paletteScan_congr {m m' : Memory Pixel} {p : Pixel} {n j : Nat}
    (h : ∀ i, j ≤ i → i < j + n → m'.read i = m.read i) : paletteScan m' p j n = paletteScan m p j n := by
  induction n generalizing j with
  | zero => rfl
  | succ n ih =>
    unfold paletteScan
    rw [h j le_rfl (by omega), ih fun i hi hn => h i (by omega) (by omega)]

theorem SharedPalette.scan (h : SharedPalette s t) (p : Pixel) :
    paletteScan t.pal p 0 t.palSize.toNat = paletteScan s.pal p 0 s.palSize.toNat := by
  rw [h.size]
  exact paletteScan_congr fun i _ hi => h.entries i (by omega)

theorem SharedPalette.index (h : SharedPalette s t) (p : Pixel) : paletteIndex p t = paletteIndex p s := by
  unfold paletteIndex
  rw [h.scan p]

theorem SharedPalette.append (h : SharedPalette s t) (p : Pixel) :
    SharedPalette (setPalSize (s.palSize.toNat + 1) (writePal s.palSize.toNat p s))
      (setPalSize (s.palSize.toNat + 1) (writePal s.palSize.toNat p t)) where
  size := rfl
  entries := by
    intro i hi
    simp only [setPalSize_palSize, BitVec.toNat_ofNat] at hi
    simp only [setPalSize_pal, writePal_pal, Memory.read_write]
    split_ifs with he
    · rfl
    · refine h.entries i ?_
      have := Nat.mod_le (s.palSize.toNat + 1) (2 ^ 9)
      omega

/-- A palette counts where one is stored. -/
theorem Twins.entryCount (h : Twins s t) (hp : usesPalette s.version s.depth → SharedPalette s t) :
    entryCount t = entryCount s := by
  unfold Machine.entryCount
  rw [h.version, h.depth]
  split_ifs with huse
  · rw [(hp huse).size]
  · rfl

theorem Twins.headerLength (h : Twins s t) (hp : usesPalette s.version s.depth → SharedPalette s t) :
    headerLength t = headerLength s := by
  unfold Machine.headerLength
  rw [h.version, h.entryCount hp]

theorem Twins.headerInstr (h : Twins s t) (hp : usesPalette s.version s.depth → SharedPalette s t) :
    headerInstr t = headerInstr s := by
  unfold Machine.headerInstr
  rw [h.headerLength hp, h.version, h.width, h.height, h.depth, h.rle]

/-! ### The phases of `ENC`, in step -/

theorem encStart_alike (h : Twins s t) : Alike (encStart s) (encStart t) := by
  by_cases hl : legalConfig s.version s.depth
  case neg =>
    rw [encStart_of_illegal hl, encStart_of_illegal (by rwa [h.version, h.depth])]
    exact .stop _
  have hl' : legalConfig t.version t.depth := by rwa [h.version, h.depth]
  cases hfit : fits (pixelCount s) s.caps.pmem
  case false =>
    rw [encStart_of_not_fits hl hfit, encStart_of_not_fits hl' (by rwa [h.pixelCount, h.caps])]
    exact .stop _
  obtain ⟨kind, hk⟩ := selects_of_legal s.rle hl
  rw [encStart_of_legal hl hfit hk,
    encStart_of_legal hl' (by rwa [h.pixelCount, h.caps]) (kind := kind) (by rwa [h.version, h.depth, h.rle]),
    h.version, h.depth]
  split_ifs with huse
  · exact .goOn ⟨(h.setPalSize 0).setJob _, rfl, rfl, fun _ => ⟨rfl, fun i hi => absurd hi (Nat.not_lt_zero i)⟩⟩
  · refine .goOn ⟨h.setJob _, rfl, rfl, fun hread => ?_⟩
    exact absurd (hread.elim id (usesPalette_of_indexed (selects_streamKind hk))) huse

theorem paletteStep_alike (h : Twins s t) (hp : SharedPalette s t) (kind : RecordKind) (i : Nat) :
    Alike (paletteStep kind i s) (paletteStep kind i t) := by
  unfold paletteStep
  rw [h.pixelCount, hp.size, h.depth]
  by_cases hend : pixelCount s ≤ i
  · rw [if_pos hend, if_pos hend]
    exact .goOn ⟨h.setJob _, rfl, rfl, fun _ => ⟨hp.size, hp.entries⟩⟩
  rw [if_neg hend, if_neg hend, readPixel_congr (h.image i (by omega))]
  cases readPixel i s with
  | error e => exact .stop e
  | ok p =>
    have hscan := hp.scan p
    rw [hp.size] at hscan
    dsimp only
    rw [hscan]
    cases paletteScan s.pal p 0 s.palSize.toNat with
    | error e => exact .stop e
    | ok found =>
      cases found with
      | some q => exact .goOn ⟨h.setJob _, rfl, rfl, fun _ => ⟨hp.size, hp.entries⟩⟩
      | none =>
        dsimp only
        split_ifs
        · exact .stop _
        · obtain ⟨hsize, hentries⟩ := hp.append p
          exact .goOn ⟨((h.writePal _ p).setPalSize _).setJob _, rfl, rfl, fun _ => ⟨hsize, hentries⟩⟩

/-- Emitting the same bytes, the runs go on in step or both overflow. -/
theorem Twins.emit_cases (h : Twins s t) (bs : List Byte) :
    (fits (s.work.wp + bs.length) s.caps.obuf = true ∧ emit bs s = .ok (Machine.emitBytes bs s) ∧
      emit bs t = .ok (Machine.emitBytes bs t)) ∨
    (emit bs s = .error (.err .bufferOverflow) ∧ emit bs t = .error (.err .bufferOverflow)) := by
  by_cases hfit : fits (s.work.wp + bs.length) s.caps.obuf = true
  · exact .inl ⟨hfit, emit_of_fits hfit, emit_of_fits (by rwa [h.wp, h.caps])⟩
  · exact .inr ⟨emit_of_not_fits hfit, emit_of_not_fits (by rwa [h.wp, h.caps])⟩

theorem headerStep_alike (h : Twins s t) {kind : RecordKind}
    (hp : usesPalette s.version s.depth ∨ indexed kind = true → SharedPalette s t) :
    Alike (headerStep kind s) (headerStep kind t) := by
  unfold headerStep
  rw [h.headerInstr fun huse => hp (.inl huse)]
  obtain ⟨hfit, hs, ht⟩ | ⟨hs, ht⟩ := h.emit_cases (encode (Machine.headerInstr s)) <;> rw [hs, ht]
  · exact .goOn ⟨(h.emitBytes hfit).setJob _, rfl, rfl, fun hr => ⟨(hp hr).size, (hp hr).entries⟩⟩
  · exact .stop _

theorem paletteOutStep_alike (h : Twins s t) {kind : RecordKind} (i : Nat)
    (hp : usesPalette s.version s.depth ∨ indexed kind = true → SharedPalette s t) :
    Alike (paletteOutStep kind i s) (paletteOutStep kind i t) := by
  unfold paletteOutStep
  rw [h.entryCount fun huse => hp (.inl huse)]
  by_cases hi : i < Machine.entryCount s
  case neg =>
    rw [if_neg hi, if_neg hi]
    exact .goOn ⟨h.setJob _, rfl, rfl, fun hr => ⟨(hp hr).size, (hp hr).entries⟩⟩
  have hread : t.pal.read i = s.pal.read i := by
    unfold Machine.entryCount at hi
    split_ifs at hi with huse
    · exact (hp (.inl huse)).entries i hi
    · omega
  rw [if_pos hi, if_pos hi, hread]
  cases s.pal.read i with
  | none => exact .stop _
  | some p =>
    dsimp only
    obtain ⟨hfit, hs, ht⟩ | ⟨hs, ht⟩ := h.emit_cases (encode (.pal p.r p.g p.b)) <;> rw [hs, ht]
    · exact .goOn ⟨(h.emitBytes hfit).setJob _, rfl, rfl, fun hr => ⟨(hp hr).size, (hp hr).entries⟩⟩
    · exact .stop _

/-- The command ends with the same file, header length and palette (R197). -/
theorem Twins.finishEnc (h : Twins s t) (hp : usesPalette s.version s.depth → SharedPalette s t) :
    SameEnd (finishEnc (Machine.headerLength s) (Machine.entryCount s) s)
      (finishEnc (Machine.headerLength t) (Machine.entryCount t) t) := by
  rw [h.headerLength hp, h.entryCount hp]
  refine ⟨by simp, rfl, h.alone.err.trans h.alone'.err.symm, fun _ => ⟨?_, rfl, rfl, fun a ha => ?_, fun i hi => ?_⟩⟩
  · rw [finishEnc_outLen, finishEnc_outLen, h.wp]
  · have hle : (outLenOf s.work.wp).toNat ≤ s.work.wp := by
      unfold outLenOf
      split_ifs with hlen
      · rw [BitVec.toNat_ofNat]; exact Nat.mod_le _ _
      · have := (Config.longOutLen s.work.wp).isLt
        omega
    have ha' : a < s.work.wp := lt_of_lt_of_le ha hle
    rw [finishEnc_obuf, finishEnc_obuf, Memory.read_loosen_lt _ _ ha', Memory.read_loosen_lt _ _ (by rwa [h.wp])]
    exact (h.file a ha').symm
  · have hi' : i < Machine.entryCount s :=
      lt_of_lt_of_le hi (by rw [finishEnc_palSize, BitVec.toNat_ofNat]; exact Nat.mod_le _ _)
    rw [finishEnc_pal, finishEnc_pal, Memory.read_loosen_lt _ _ hi', Memory.read_loosen_lt _ _ hi']
    unfold Machine.entryCount at hi'
    split_ifs at hi' with huse
    · exact ((hp huse).entries i hi').symm
    · omega

/-- An output of the stream encoder in both runs, from the same bytes and registers. -/
theorem Twins.move_cases (h : Twins s t) {bs bs' : List Byte} {w w' : Work} (hbs : bs' = bs) :
    (fits (s.work.wp + bs.length) s.caps.obuf = true ∧ moveOrOverflow bs w s = .ok (Machine.encoderMove bs w s) ∧
      moveOrOverflow bs' w' t = .ok (Machine.encoderMove bs w' t)) ∨
    (moveOrOverflow bs w s = .error (.err .bufferOverflow) ∧ moveOrOverflow bs' w' t = .error (.err .bufferOverflow)) := by
  subst hbs
  unfold moveOrOverflow
  rw [h.wp, h.caps]
  split_ifs with hfit
  · exact .inl ⟨hfit, rfl, rfl⟩
  · exact .inr ⟨rfl, rfl⟩

theorem pixelOutput_congr {w w' : Work} (h : visibleWork w' = visibleWork w) (kind : RecordKind) (j : Nat) (p : Pixel) :
    pixelOutput kind j p w' = pixelOutput kind j p w := by
  rw [← pixelOutput_visibleWork, h, pixelOutput_visibleWork]

theorem pixelWork_congr {w w' : Work} (h : visibleWork w' = visibleWork w) (kind : RecordKind) (j : Nat) (p : Pixel) :
    visibleWork (pixelWork kind j p w') = visibleWork (pixelWork kind j p w) := by
  rw [← pixelWork_visibleWork, h, pixelWork_visibleWork]

theorem flushOutput_congr {w w' : Work} (h : visibleWork w' = visibleWork w) (kind : RecordKind) :
    flushOutput kind w' = flushOutput kind w := by
  rw [← flushOutput_visibleWork, h, flushOutput_visibleWork]

/-- One pixel in both runs: the same output, or the same reason to stop. -/
theorem encodePixel_cases (h : Twins s t) {kind : RecordKind} (hp : indexed kind = true → SharedPalette s t) (p : Pixel) :
    (∃ bs w w', fits (s.work.wp + bs.length) s.caps.obuf = true ∧ visibleWork w' = visibleWork w ∧
      encodePixel kind p s = .ok (Machine.encoderMove bs w s) ∧ encodePixel kind p t = .ok (Machine.encoderMove bs w' t)) ∨
    ∃ e, encodePixel kind p s = .error e ∧ encodePixel kind p t = .error e := by
  by_cases herr : indexed kind = true ∧ ∃ e, paletteIndex p s = .error e
  · obtain ⟨hk, e, he⟩ := herr
    have he' : paletteIndex p t = .error e := ((hp hk).index p).trans he
    exact .inr ⟨e, encodePixel_of_index_error hk he, encodePixel_of_index_error hk he'⟩
  obtain ⟨j, hj⟩ : ∃ j, indexed kind = true → paletteIndex p s = .ok j := by
    cases hi : paletteIndex p s with
    | ok j => exact ⟨j, fun _ => rfl⟩
    | error e => exact ⟨0, fun hk => absurd ⟨hk, e, hi⟩ herr⟩
  have hj' : indexed kind = true → paletteIndex p t = .ok j := fun hk => ((hp hk).index p).trans (hj hk)
  rw [encodePixel_eq h.room hj, encodePixel_eq h.room' hj']
  obtain ⟨hfit, hs, ht⟩ | ⟨hs, ht⟩ := h.move_cases (w := pixelWork kind j p s.work) (w' := pixelWork kind j p t.work)
    (pixelOutput_congr h.work kind j p)
  · exact .inl ⟨_, _, _, hfit, pixelWork_congr h.work kind j p, hs, ht⟩
  · exact .inr ⟨_, hs, ht⟩

theorem encodeStep_alike (h : Twins s t) {kind : RecordKind} (hj : s.job = .encStream kind) (hj' : t.job = .encStream kind)
    (hp : usesPalette s.version s.depth ∨ indexed kind = true → SharedPalette s t) :
    Alike (encodeStep kind s) (encodeStep kind t) := by
  unfold encodeStep
  rw [h.pixelCount, h.pix]
  by_cases hmore : s.work.pix < Machine.pixelCount s
  · rw [if_pos hmore, if_pos hmore, readPixel_congr (h.image _ hmore)]
    cases readPixel s.work.pix s with
    | error e => exact .stop e
    | ok p =>
      dsimp only
      obtain ⟨bs, w, w', hfit, hw, hs, ht⟩ | ⟨e, hs, ht⟩ := encodePixel_cases h (fun hk => hp (.inr hk)) p <;> rw [hs, ht]
      · refine .goOn ⟨(h.encoderMove hfit hw).nextPixel, hj'.trans hj.symm, ?_, fun hr => ?_⟩
        · show encoding s.job = true
          rw [hj]; rfl
        · have hr' : readsPalette s.version s.depth s.job := hr
          rw [hj] at hr'
          exact ⟨(hp hr').size, (hp hr').entries⟩
      · exact .stop e
  · rw [if_neg hmore, if_neg hmore]
    obtain ⟨w, hw⟩ := flushStream_eq (kind := kind) h.room
    obtain ⟨w', hw'⟩ := flushStream_eq (kind := kind) h.room'
    rw [hw, hw']
    obtain ⟨hfit, hs, ht⟩ | ⟨hs, ht⟩ := h.move_cases (w := w) (w' := w') (flushOutput_congr h.work kind) <;> rw [hs, ht]
    · -- the end of the command replaces the working registers, so those of the last output may be taken instead
      have hend := (h.encoderMove hfit h.work).finishEnc fun huse => ⟨(hp (.inl huse)).size, (hp (.inl huse)).entries⟩
      exact .done hend
    · exact .stop _

/-! ### Two whole runs -/

/-- One step of both runs. -/
theorem InStep.next {s' t' : State} (h : InStep s t) (hs : engineStep s = .next s') (ht : engineStep t = .next t') :
    InStep s' t' ∨ SameEnd s' t' := by
  obtain ⟨htw, hjt, henc, hp⟩ := h
  cases hj : s.job
  all_goals
    rw [hj] at hjt henc hp
    simp only [engineStep, hj, hjt] at hs ht
  case none | decHeader | decPalette | decStream => cases henc
  case encStart => exact (encStart_alike htw).settle hs ht
  case encPalette kind i => exact (paletteStep_alike htw (hp trivial) kind i).settle hs ht
  case encHeader => exact (headerStep_alike htw hp).settle hs ht
  case encPalOut kind i => exact (paletteOutStep_alike htw i hp).settle hs ht
  case encStream => exact (encodeStep_alike htw hj hjt hp).settle hs ht

theorem InStep.job_ne_none (h : InStep s t) : s.job ≠ .none := fun hj => by
  have henc := h.encoding
  rw [hj] at henc
  cases henc

/-- Runs that begin in step end alike. -/
theorem InStep.ends {n m : Nat} {s' t' : State} (h : InStep s t) (hs : runSteps n s = .next s') (ht : runSteps m t = .next t')
    (hb : s'.status ≠ .busy) (hb' : t'.status ≠ .busy) : SameEnd s' t' := by
  induction n generalizing s t m with
  | zero => cases hs; exact absurd h.twins.alone.status hb
  | succ n ih =>
    cases m with
    | zero => cases ht; exact absurd h.twins.alone'.status hb'
    | succ m =>
      have hs₁ := hs
      have ht₁ := ht
      rw [runSteps, step_of_alone h.twins.alone] at hs₁
      rw [runSteps, step_of_alone h.twins.alone'] at ht₁
      split at hs₁
      case h_2 | h_3 => cases hs₁
      split at ht₁
      case h_2 | h_3 => cases ht₁
      rename_i u hu _ v hv
      obtain hnext | hend := h.next hu hv
      · exact ih hnext hs₁ ht₁
      · have hcs : ControlInv s := Running.control ⟨h.twins.alone.status, h.twins.alone.err⟩ h.job_ne_none
        have hct : ControlInv t := Running.control ⟨h.twins.alone'.status, h.twins.alone'.err⟩ (h.job ▸ h.job_ne_none)
        have hu₁ : runSteps 1 s = .next u := by rw [runSteps, step_of_alone h.twins.alone, hu]; rfl
        have hv₁ : runSteps 1 t = .next v := by rw [runSteps, step_of_alone h.twins.alone', hv]; rfl
        rw [ended_unique h.twins.alone.host hcs hs hu₁ hb hend.ended,
          ended_unique h.twins.alone'.host hct ht hv₁ hb' (hend.status ▸ hend.ended)]
        exact hend

end

/-- `ENC` started in two states with the same image, configuration and capacities. -/
theorem inStep_start {s t : State} {px : List Pixel} (hs : s.host = []) (ht : t.host = []) (hcaps : s.caps = t.caps)
    (hv : s.version = t.version) (hd : s.depth = t.depth) (hr : s.rle = t.rle) (hw : s.width = t.width)
    (hh : s.height = t.height) (hpx : s.pmem.readRange 0 (pixelCount s) = some px)
    (hpx' : t.pmem.readRange 0 (pixelCount t) = some px) :
    InStep (startCommand .encStart s) (startCommand .encStart t) where
  twins :=
    { alone := ⟨rfl, rfl, hs⟩, alone' := ⟨rfl, rfl, ht⟩
      config := by simp only [configOf, startCommand_version, startCommand_depth, startCommand_rle, hv, hd, hr]
      width := hw.symm, height := hh.symm, caps := hcaps.symm, work := rfl
      image := by
        have hcount : pixelCount t = pixelCount s := by rw [pixelCount, pixelCount, hw, hh]
        exact Memory.read_eq_of_readRange (hcount ▸ hpx') hpx
      file := fun a ha => absurd ha (Nat.not_lt_zero a)
      room := fits_zero _ }
  job := rfl
  encoding := rfl
  palette := False.elim

/-- Settles O59: the two runs read the same wherever they read at all, so they stay in step to the end. -/
theorem encPure : Obligations.EncPure := by
  intro s₁ s₂ u₁ u₂ t₁ t₂ px n₁ n₂ hb₁ hb₂ hh₁ hh₂ hcaps hv hd hr hw hh hpx₁ hpx₂ hu₁ hu₂ ht₁ ht₂ hend₁ hend₂
  cases hu₁.symm.trans (unlessBusy_of_not_busy hb₁)
  cases hu₂.symm.trans (unlessBusy_of_not_busy hb₂)
  obtain ⟨-, hstatus, herr, hdone⟩ := (inStep_start hh₁ hh₂ hcaps hv hd hr hw hh hpx₁ hpx₂).ends ht₁ ht₂ hend₁ hend₂
  refine ⟨hstatus, herr, fun h => ?_⟩
  obtain ⟨hout, hhdr, hsize, hfile, hpal⟩ := hdone h
  exact ⟨hout, hhdr, hsize, hfile, hpal⟩

end Sys2Proof.Machine
end

section
/-! The layouts of spec/30, field by field: what the decoder reads from the bytes the encoder writes, and what the encoder
writes from the fields the decoder reads. -/

namespace Sys2Proof.Machine

/-! ### Fields and bytes -/

theorem byteOf_eq {n : Nat} {b : Byte} (h : n = b.toNat) : byteOf n = b := h ▸ byteOf_toNat_self b

theorem field_lt (b : Byte) (lo w : Nat) : field b lo w < 2 ^ w := Nat.mod_lt _ (Nat.two_pow_pos w)

/-- Removing the bias from what was stored with it gives the value back (R70). -/
theorem unbias_bias {v B : Int} (h : 0 ≤ v + B) : unbias (bias v B) B = v := by
  simp only [unbias, bias]; omega

theorem bias_lt {v B : Int} {n : Nat} (h : v + B < n + 1) : bias v B < n + 1 := by
  simp only [bias]; omega

/-- A field read with its bias is within the range that its width allows (R70). -/
theorem within_unbias {f : Nat} {B hi : Int} (h : (f : Int) ≤ hi + B) : within (unbias f B) (-B) hi := by
  simp only [within, unbias]; omega

@[simp] theorem bias_unbias (f : Nat) (B : Int) : bias (unbias f B) B = f := by
  simp [unbias, bias]

@[simp] theorem le16_toNat (lo hi : Byte) : (le16 lo hi).toNat = lo.toNat + 256 * hi.toNat := by
  simp only [le16, BitVec.toNat_ofNat]; omega

theorem le16_of_le16Bytes (v : Half) : le16 (BitVec.ofNat 8 (v.toNat % 256)) (BitVec.ofNat 8 (v.toNat / 256)) = v := by
  apply BitVec.eq_of_toNat_eq
  simp only [le16_toNat, BitVec.toNat_ofNat]; omega

@[simp] theorem le16Bytes_le16 (lo hi : Byte) : le16Bytes (le16 lo hi) = [lo, hi] := by
  have hlo : (lo.toNat + 256 * hi.toNat) % 256 = lo.toNat := by omega
  have hhi : (lo.toNat + 256 * hi.toNat) / 256 = hi.toNat := by omega
  simp [le16Bytes, hlo, hhi]

/-! ### Packed bytes -/

theorem laneSum_lt {d n : Nat} {lanes : List Nat} (hb : ∀ x ∈ lanes, x < 2 ^ d) (hlen : d * (n + lanes.length) ≤ 8) :
    laneSum d n lanes < 2 ^ (8 - d * n) := by
  induction lanes generalizing n with
  | nil => simp [laneSum]
  | cons x xs ih =>
    simp only [List.mem_cons, forall_eq_or_imp, List.length_cons] at hb hlen
    have htail := ih hb.2 (n := n + 1) (by rwa [Nat.add_right_comm, Nat.add_assoc])
    have hexp : 8 - d * n = d + (8 - d * (n + 1)) := by
      have : d * (n + 1) ≤ d * (n + (xs.length + 1)) := Nat.mul_le_mul_left d (by omega)
      rw [Nat.mul_succ] at this ⊢; omega
    rw [laneSum_cons, hexp, Nat.pow_add]
    calc x * 2 ^ (8 - d * (n + 1)) + laneSum d (n + 1) xs
        < (x + 1) * 2 ^ (8 - d * (n + 1)) := by rw [Nat.succ_mul]; omega
      _ ≤ 2 ^ d * 2 ^ (8 - d * (n + 1)) := Nat.mul_le_mul_right _ hb.1

/-- Lanes do not overlap: each stands in its own bits of the sum (R120). -/
theorem laneSum_div_mod {d n j : Nat} {lanes : List Nat} (hb : ∀ x ∈ lanes, x < 2 ^ d)
    (hlen : d * (n + lanes.length) ≤ 8) (hj : j < lanes.length) :
    laneSum d n lanes / 2 ^ (8 - d * (n + j + 1)) % 2 ^ d = lanes[j] := by
  induction lanes generalizing n j with
  | nil => simp at hj
  | cons x xs ih =>
    simp only [List.mem_cons, forall_eq_or_imp, List.length_cons] at hb hlen hj
    have hlen' : d * (n + 1 + xs.length) ≤ 8 := by rwa [Nat.add_right_comm, Nat.add_assoc]
    rw [laneSum_cons]
    cases j with
    | zero =>
      rw [Nat.add_zero, Nat.add_comm, Nat.add_mul_div_right _ _ (Nat.two_pow_pos _), Nat.div_eq_of_lt (laneSum_lt hb.2 hlen'),
        Nat.zero_add, Nat.mod_eq_of_lt hb.1, List.getElem_cons_zero]
    | succ j =>
      have hle : d * (n + 1 + (j + 1)) ≤ 8 := le_trans (Nat.mul_le_mul_left d (by omega)) hlen'
      have hmul : d * (n + 1 + (j + 1)) = d * (n + 1) + (d * j + d) := by ring
      have hexp : 8 - d * (n + 1) = d * j + d + (8 - d * (n + 1 + j + 1)) := by
        rw [Nat.add_assoc _ j 1]; omega
      rw [show n + (j + 1) + 1 = n + 1 + j + 1 by omega, hexp, Nat.pow_add, ← Nat.mul_assoc, Nat.add_comm,
        Nat.add_mul_div_right _ _ (Nat.two_pow_pos _), Nat.pow_add, ← Nat.mul_assoc, Nat.add_mul_mod_self_right,
        ih hb.2 hlen' (by omega), List.getElem_cons_succ]

/-- Lane `j` of a packed byte is the `j`-th index packed (R46, R69, R120). -/
theorem lane_byteOf_packByte {d : Nat} {lanes : List Nat} (hb : ∀ x ∈ lanes, x < 2 ^ d) (hlen : d * lanes.length ≤ 8)
    {j : Nat} (hj : j < lanes.length) : (lane (byteOf (packByte d lanes)) d j).toNat = lanes[j] := by
  have hsum : packByte d lanes = laneSum d 0 lanes := rfl
  have hlt := laneSum_lt hb (n := 0) (by rwa [Nat.zero_add])
  have hj' := laneSum_div_mod hb (n := 0) (by rwa [Nat.zero_add]) hj
  rw [Nat.mul_zero, Nat.sub_zero] at hlt
  rw [Nat.zero_add] at hj'
  rw [lane, field, hsum, Laws.byteOf_toNat hlt, hj', BitVec.toNat_ofNat, Nat.mod_eq_of_lt (hb _ (List.getElem_mem hj))]

/-- The same for indices that are `d` bits wide. -/
theorem lane_byteOf_packByte_map {d : Nat} (xs : List (BitVec d)) (hlen : d * xs.length ≤ 8) {j : Nat} (hj : j < xs.length) :
    lane (byteOf (packByte d (xs.map BitVec.toNat))) d j = xs[j] := by
  apply BitVec.eq_of_toNat_eq
  rw [lane_byteOf_packByte (by simp [BitVec.isLt]) (by simpa using hlen) (by simpa using hj), List.getElem_map]

/-- Packing all lanes of a byte gives the byte (R69, R120). -/
theorem packByte_lanesOf {d : Nat} (hd : d = 1 ∨ d = 2 ∨ d = 4) (b : Byte) : packByte d (lanesOf d b) = b.toNat := by
  have hlane : ∀ j, (lane b d j).toNat = b.toNat / 2 ^ (8 - d * (j + 1)) % 2 ^ d := fun j => by
    rw [lane, field, BitVec.toNat_ofNat, Nat.mod_mod]
  simp only [lanesOf, hlane]
  obtain rfl | rfl | rfl := hd
  · change b.toNat / 128 % 2 * 128 + (b.toNat / 64 % 2 * 64 + (b.toNat / 32 % 2 * 32 + (b.toNat / 16 % 2 * 16 +
      (b.toNat / 8 % 2 * 8 + (b.toNat / 4 % 2 * 4 + (b.toNat / 2 % 2 * 2 + (b.toNat / 1 % 2 * 1 + 0))))))) = b.toNat
    omega
  · change b.toNat / 64 % 4 * 64 + (b.toNat / 16 % 4 * 16 + (b.toNat / 4 % 4 * 4 + (b.toNat / 1 % 4 * 1 + 0))) = b.toNat
    omega
  · change b.toNat / 16 % 16 * 16 + (b.toNat / 1 % 16 * 1 + 0) = b.toNat
    omega

/-! ### Headers -/

/-- A version 1, 2 or 4 header, field by field (R61, R71, R213). -/
theorem decodeHeader_plain {v : Byte} (hv : v = 1 ∨ v = 2 ∨ v = 4) {l0 l1 : Byte} (hl : le16 l0 l1 = 12)
    (w0 w1 h0 h1 : Byte) (rest : List Byte) :
    decodeHeader (magic ++ [v, l0, l1, w0, w1, h0, h1] ++ rest) = .ok (.hdr12 v (le16 w0 w1) (le16 h0 h1), rest) := by
  simp only [magic, List.cons_append, List.nil_append, decodeHeader]
  rw [if_neg (by simp), if_pos hv, if_neg (by simp [hl])]

/-- The fixed part of a version 3 header, field by field (R62, R71). -/
theorem decodeHeader_version3 (l0 l1 w0 w1 h0 h1 d f : Byte) (rest : List Byte) :
    decodeHeader (magic ++ [3, l0, l1, w0, w1, h0, h1, d, f] ++ rest) =
      .ok (.hdr3 (le16 l0 l1) (le16 w0 w1) (le16 h0 h1) d f, rest) := rfl

theorem decodeHeader_encode_hdr12 {v : Byte} (hv : v = 1 ∨ v = 2 ∨ v = 4) (w h : Half) (rest : List Byte) :
    decodeHeader (encode (.hdr12 v w h) ++ rest) = .ok (.hdr12 v w h, rest) := by
  have hdec := decodeHeader_plain hv (le16_of_le16Bytes 12) (BitVec.ofNat 8 (w.toNat % 256)) (BitVec.ofNat 8 (w.toNat / 256))
    (BitVec.ofNat 8 (h.toNat % 256)) (BitVec.ofNat 8 (h.toNat / 256)) rest
  rw [le16_of_le16Bytes, le16_of_le16Bytes] at hdec
  exact hdec

theorem decodeHeader_encode_hdr3 (hl w h : Half) (d f : Byte) (rest : List Byte) :
    decodeHeader (encode (.hdr3 hl w h d f) ++ rest) = .ok (.hdr3 hl w h d f, rest) := by
  have hdec := decodeHeader_version3 (BitVec.ofNat 8 (hl.toNat % 256)) (BitVec.ofNat 8 (hl.toNat / 256))
    (BitVec.ofNat 8 (w.toNat % 256)) (BitVec.ofNat 8 (w.toNat / 256)) (BitVec.ofNat 8 (h.toNat % 256))
    (BitVec.ofNat 8 (h.toNat / 256)) d f rest
  rw [le16_of_le16Bytes, le16_of_le16Bytes, le16_of_le16Bytes] at hdec
  exact hdec

/-- A header is the encoding of what the decoder reads from it. -/
theorem encode_of_decodeHeader {S rest : List Byte} {i : Instr} (h : decodeHeader S = .ok (i, rest)) :
    S = encode i ++ rest := by
  unfold decodeHeader at h
  split at h
  case h_2 => cases h
  rename_i m0 m1 m2 m3 m4 v t
  split_ifs at h with hm hv hv3
  · split at h
    case h_2 => cases h
    split_ifs at h with hl
    cases h
    obtain ⟨rfl, rfl, rfl, rfl, rfl⟩ : m0 = _ ∧ m1 = _ ∧ m2 = _ ∧ m3 = _ ∧ m4 = _ := by simpa [magic] using hm
    simp [encode, magic, ← not_not.1 hl]
  · subst hv3
    split at h <;> cases h
    obtain ⟨rfl, rfl, rfl, rfl, rfl⟩ : m0 = _ ∧ m1 = _ ∧ m2 = _ ∧ m3 = _ ∧ m4 = _ := by simpa [magic] using hm
    simp [encode, magic]

/-- Settles O5: the fields that the decoder reads are the two bytes, low byte first. -/
theorem headerFields : Obligations.HeaderFields := by
  intro v l0 l1 w0 w1 h0 h1 d f rest
  refine ⟨fun hv hl => ?_, ?_⟩
  · have h12 : le16 l0 l1 = 12 := BitVec.eq_of_toNat_eq ((le16_toNat l0 l1).trans hl)
    exact ⟨_, _, le16_toNat w0 w1, le16_toNat h0 h1, decodeHeader_plain hv h12 w0 w1 h0 h1 rest⟩
  · exact ⟨_, _, _, le16_toNat l0 l1, le16_toNat w0 w1, le16_toNat h0 h1, decodeHeader_version3 ..⟩

/-! ### Version 4 blocks, by their first byte -/

theorem ne_ff_of_toNat {b0 : Byte} (h : b0.toNat ≠ 0xFF) : b0 ≠ 0xFF := by rintro rfl; exact h rfl

section
variable {b0 : Byte}

theorem decodeDelta_small (h : field b0 6 2 = 0) (t : List Byte) :
    decodeDelta (b0 :: t) =
      .ok (.small (unbias (field b0 4 2) 2) (unbias (field b0 2 2) 2) (unbias (field b0 0 2) 2), t) := by
  have hne : b0 ≠ 0xFF := by rintro rfl; cases h
  simp only [decodeDelta, if_neg hne, if_pos h]

theorem decodeDelta_inter (h : field b0 6 2 = 1) (b1 : Byte) (t : List Byte) :
    decodeDelta (b0 :: b1 :: t) =
      .ok (.inter (unbias (field b0 0 6) 32 + unbias (field b1 4 4) 8) (unbias (field b0 0 6) 32)
        (unbias (field b0 0 6) 32 + unbias (field b1 0 4) 8), t) := by
  have hne : b0 ≠ 0xFF := by rintro rfl; cases h
  simp only [decodeDelta, if_neg hne, h, if_pos, Nat.one_ne_zero, if_false]

/-- The first byte of a `BIGx` block is no other block's. -/
theorem field_high_of_big {tag : Nat} (h : field b0 4 4 = tag) (ht : 8 ≤ tag ∧ tag ≤ 10) :
    b0 ≠ 0xFF ∧ field b0 6 2 ≠ 0 ∧ field b0 6 2 ≠ 1 := by
  refine ⟨?_, ?_, ?_⟩
  · rintro rfl
    have : tag = 15 := h.symm
    omega
  all_goals
    simp only [field] at h ⊢
    omega

theorem decodeDelta_bigr (h : field b0 4 4 = 8) (b1 b2 : Byte) (t : List Byte) :
    decodeDelta (b0 :: b1 :: b2 :: t) =
      .ok (.bigr (unbias (bigP b0 b1) 128) (unbias (bigP b0 b1) 128 + unbias (bigS1 b1 b2) 32)
        (unbias (bigP b0 b1) 128 + unbias (bigS2 b2) 32), t) := by
  obtain ⟨hne, h0, h1⟩ := field_high_of_big h (by decide)
  simp only [decodeDelta, if_neg hne, if_neg h0, if_neg h1, if_pos h]

theorem decodeDelta_bigg (h : field b0 4 4 = 9) (b1 b2 : Byte) (t : List Byte) :
    decodeDelta (b0 :: b1 :: b2 :: t) =
      .ok (.bigg (unbias (bigP b0 b1) 128 + unbias (bigS1 b1 b2) 32) (unbias (bigP b0 b1) 128)
        (unbias (bigP b0 b1) 128 + unbias (bigS2 b2) 32), t) := by
  obtain ⟨hne, h0, h1⟩ := field_high_of_big h (by decide)
  simp only [decodeDelta, if_neg hne, if_neg h0, if_neg h1, h, if_pos, Nat.reduceEqDiff, if_false]

theorem decodeDelta_bigb (h : field b0 4 4 = 10) (b1 b2 : Byte) (t : List Byte) :
    decodeDelta (b0 :: b1 :: b2 :: t) =
      .ok (.bigb (unbias (bigP b0 b1) 128 + unbias (bigS1 b1 b2) 32) (unbias (bigP b0 b1) 128 + unbias (bigS2 b2) 32)
        (unbias (bigP b0 b1) 128), t) := by
  obtain ⟨hne, h0, h1⟩ := field_high_of_big h (by decide)
  simp only [decodeDelta, if_neg hne, if_neg h0, if_neg h1, h, if_pos, Nat.reduceEqDiff, if_false]

theorem decodeDelta_new (r g b : Byte) (t : List Byte) : decodeDelta (0xFF :: r :: g :: b :: t) = .ok (.new r g b, t) := rfl

theorem decodeDelta_reserved (hlo : 0xB0 ≤ b0.toNat) (hhi : b0.toNat ≤ 0xFE) (t : List Byte) :
    decodeDelta (b0 :: t) = .ok (.reservedV4 b0, t) := by
  have hne : b0 ≠ 0xFF := ne_ff_of_toNat (by omega)
  have h2 : 2 ≤ field b0 6 2 := by simp only [field]; omega
  have h11 : 11 ≤ field b0 4 4 := by simp only [field]; omega
  simp only [decodeDelta, if_neg hne]
  rw [if_neg (by omega), if_neg (by omega), if_neg (by omega), if_neg (by omega), if_neg (by omega)]

end

/-- Settles O3: by the range of the first byte (R84, R85). -/
theorem deltaFirstByte : Obligations.DeltaFirstByte := by
  intro b0 b1 b2 b3 u
  have hlow : b0.toNat < 0xB0 → deltaLen b0 = if b0.toNat < 0x40 then 1 else if b0.toNat < 0x80 then 2 else 3 := fun h => by
    simpa using Laws.deltaLen_byteOf h
  refine ⟨fun h => ?_, fun h h' => ?_, fun h h' => ?_, fun h h' => ?_, fun h h' => ?_, fun h h' => ?_, fun h => ?_⟩
  · exact ⟨by rw [hlow (by omega), if_pos (by omega)], _, _, _, decodeDelta_small (by simp only [field]; omega) u⟩
  · exact ⟨by rw [hlow (by omega), if_neg (by omega), if_pos (by omega)], _, _, _,
      decodeDelta_inter (by simp only [field]; omega) b1 u⟩
  · exact ⟨by rw [hlow (by omega), if_neg (by omega), if_neg (by omega)], _, _, _,
      decodeDelta_bigr (by simp only [field]; omega) b1 b2 u⟩
  · exact ⟨by rw [hlow (by omega), if_neg (by omega), if_neg (by omega)], _, _, _,
      decodeDelta_bigg (by simp only [field]; omega) b1 b2 u⟩
  · exact ⟨by rw [hlow (by omega), if_neg (by omega), if_neg (by omega)], _, _, _,
      decodeDelta_bigb (by simp only [field]; omega) b1 b2 u⟩
  · exact decodeDelta_reserved h h' u
  · subst h
    exact ⟨rfl, decodeDelta_new b1 b2 b3 u⟩

/-! ### The fields of a block that cross a byte -/

theorem bigP_lt (b0 b1 : Byte) : bigP b0 b1 < 256 := by simp only [bigP, field]; omega
theorem bigS1_lt (b1 b2 : Byte) : bigS1 b1 b2 < 64 := by simp only [bigS1, field]; omega
theorem bigS2_lt (b2 : Byte) : bigS2 b2 < 64 := by simp only [bigS2, field]; omega

/-- The decoder reads from a `BIGx` block the fields it was written with (R72, R82). -/
theorem exists_bigBytes_eq {tag p s1 s2 : Nat} (ht : tag < 16) (hp : p < 256) (h1 : s1 < 64) (h2 : s2 < 64) :
    ∃ b0 b1 b2, bigBytes tag p s1 s2 = [b0, b1, b2] ∧ field b0 4 4 = tag ∧ bigP b0 b1 = p ∧ bigS1 b1 b2 = s1 ∧
      bigS2 b2 = s2 := by
  have hb0 := Laws.byteOf_toNat (n := tag * 2 ^ 4 + p / 2 ^ 4) (by omega)
  have hb1 := Laws.byteOf_toNat (n := p % 2 ^ 4 * 2 ^ 4 + s1 / 2 ^ 2) (by omega)
  have hb2 := Laws.byteOf_toNat (n := s1 % 2 ^ 2 * 2 ^ 6 + s2) (by omega)
  refine ⟨_, _, _, rfl, ?_⟩
  simp only [bigP, bigS1, bigS2, field, hb0, hb1, hb2]
  omega

/-- The fields that the decoder reads from a `BIGx` block are all its bits (R72, R82). -/
theorem bigBytes_fields {b0 : Byte} {tag : Nat} (h : field b0 4 4 = tag) (b1 b2 : Byte) :
    bigBytes tag (bigP b0 b1) (bigS1 b1 b2) (bigS2 b2) = [b0, b1, b2] := by
  have h0 : tag * 2 ^ 4 + bigP b0 b1 / 2 ^ 4 = b0.toNat := by simp only [← h, bigP, field]; omega
  have h1 : bigP b0 b1 % 2 ^ 4 * 2 ^ 4 + bigS1 b1 b2 / 2 ^ 2 = b1.toNat := by simp only [bigP, bigS1, field]; omega
  have h2 : bigS1 b1 b2 % 2 ^ 2 * 2 ^ 6 + bigS2 b2 = b2.toNat := by simp only [bigS1, bigS2, field]; omega
  rw [bigBytes, byteOf_eq h0, byteOf_eq h1, byteOf_eq h2]

/-- A field shifted clear of another one is added to it. -/
theorem shiftLeft_or_of_lt {i y : Nat} (h : y < 2 ^ i) (x : Nat) : x <<< i ||| y = x * 2 ^ i + y := by
  rw [← Nat.shiftLeft_add_eq_or_of_lt h, Nat.shiftLeft_eq]

theorem bigP_eq_shifts (b0 b1 : Byte) : bigP b0 b1 = ((b0.toNat &&& 0xF) <<< 4) ||| (b1.toNat >>> 4) := by
  rw [shiftLeft_or_of_lt (by rw [Nat.shiftRight_eq_div_pow]; omega), Nat.and_two_pow_sub_one_eq_mod _ 4,
    Nat.shiftRight_eq_div_pow]
  simp only [bigP, field]; omega

theorem bigS1_eq_shifts (b1 b2 : Byte) : bigS1 b1 b2 = ((b1.toNat &&& 0xF) <<< 2) ||| (b2.toNat >>> 6) := by
  rw [shiftLeft_or_of_lt (by rw [Nat.shiftRight_eq_div_pow]; omega), Nat.and_two_pow_sub_one_eq_mod _ 4,
    Nat.shiftRight_eq_div_pow]
  simp only [bigS1, field]; omega

theorem bigS2_eq_mask (b2 : Byte) : bigS2 b2 = b2.toNat &&& 0x3F := by
  rw [Nat.and_two_pow_sub_one_eq_mod _ 6]
  simp only [bigS2, field]; omega

theorem bigBytes_eq_shifts {tag p s1 s2 : Nat} (hp : p < 256) (h1 : s1 < 64) (h2 : s2 < 64) :
    bigBytes tag p s1 s2 =
      [BitVec.ofNat 8 ((tag <<< 4) ||| (p >>> 4)), BitVec.ofNat 8 (((p &&& 0xF) <<< 4) ||| (s1 >>> 2)),
        BitVec.ofNat 8 (((s1 &&& 0x3) <<< 6) ||| s2)] := by
  rw [shiftLeft_or_of_lt (by rw [Nat.shiftRight_eq_div_pow]; omega),
    shiftLeft_or_of_lt (by rw [Nat.shiftRight_eq_div_pow]; omega), shiftLeft_or_of_lt h2,
    Nat.and_two_pow_sub_one_eq_mod _ 4, Nat.and_two_pow_sub_one_eq_mod _ 2, Nat.shiftRight_eq_div_pow,
    Nat.shiftRight_eq_div_pow]
  rfl

/-- Settles O6: the model's fields and bytes are the rule's shifts and masks, since a shifted field is clear of the one it
is or-ed with. -/
theorem bigFields : Obligations.BigFields := by
  refine ⟨fun b0 b1 b2 u P S1 S2 hP hS1 hS2 => ?_, fun i tag dr dg db p a b P S1 S2 hw hi hp ha hb => ?_⟩
  · rw [← bigP_eq_shifts] at hP
    rw [← bigS1_eq_shifts] at hS1
    rw [← bigS2_eq_mask] at hS2
    subst hP hS1 hS2
    have htag : b0.toNat >>> 4 = field b0 4 4 := by
      rw [Nat.shiftRight_eq_div_pow]
      simp only [field]; omega
    rw [htag]
    refine ⟨fun h => ?_, fun h => ?_, fun h => ?_⟩
    · exact ⟨_, _, _, decodeDelta_bigr h b1 b2 u, by simp [unbias]⟩
    · exact ⟨_, _, _, decodeDelta_bigg h b1 b2 u, by simp [unbias]⟩
    · exact ⟨_, _, _, decodeDelta_bigb h b1 b2 u, by simp [unbias]⟩
  · have hfields : bias p 128 = P ∧ bias (a - p) 32 = S1 ∧ bias (b - p) 32 = S2 := by
      simp only [bias]; omega
    obtain ⟨hbp, hba, hbb⟩ := hfields
    have hbig : encode i = bigBytes tag P S1 S2 ∧ within p (-128) 127 ∧ within (a - p) (-32) 31 ∧ within (b - p) (-32) 31 := by
      rw [← hbp, ← hba, ← hbb]
      rcases hi with ⟨rfl, rfl, rfl, rfl, rfl⟩ | ⟨rfl, rfl, rfl, rfl, rfl⟩ | ⟨rfl, rfl, rfl, rfl, rfl⟩
      all_goals exact ⟨rfl, of_decide_eq_true hw⟩
    obtain ⟨henc, hrp, hra, hrb⟩ := hbig
    rw [henc, bigBytes_eq_shifts (by omega) (by omega) (by omega)]

end Sys2Proof.Machine
end

section
/-! Decoding undoes encoding, and encoding undoes decoding, for every format. -/

namespace Sys2Proof.Machine

/-! ### Encoding, then decoding -/

section
variable {dr dg db : Int}

/-- The fields of a `SMALL` byte (R80). -/
theorem field_smallByte {r g b : Nat} (hr : r < 4) (hg : g < 4) (hb : b < 4) :
    field (byteOf (r * 2 ^ 4 + g * 2 ^ 2 + b)) 6 2 = 0 ∧ field (byteOf (r * 2 ^ 4 + g * 2 ^ 2 + b)) 4 2 = r ∧
      field (byteOf (r * 2 ^ 4 + g * 2 ^ 2 + b)) 2 2 = g ∧ field (byteOf (r * 2 ^ 4 + g * 2 ^ 2 + b)) 0 2 = b := by
  simp only [field, Laws.byteOf_toNat (show r * 2 ^ 4 + g * 2 ^ 2 + b < 256 by omega)]
  omega

/-- The fields of the first `INTER` byte (R81). -/
theorem field_interTag {g : Nat} (hg : g < 64) : field (byteOf (0x40 + g)) 6 2 = 1 ∧ field (byteOf (0x40 + g)) 0 6 = g := by
  simp only [field, Laws.byteOf_toNat (show 0x40 + g < 256 by omega)]
  omega

/-- The halves of the second `INTER` byte (R81). -/
theorem field_halves {r b : Nat} (hr : r < 16) (hb : b < 16) :
    field (byteOf (r * 2 ^ 4 + b)) 4 4 = r ∧ field (byteOf (r * 2 ^ 4 + b)) 0 4 = b := by
  simp only [field, Laws.byteOf_toNat (show r * 2 ^ 4 + b < 256 by omega)]
  omega

theorem decodeDelta_encode_small (hw : WellFormed (.small dr dg db)) (rest : List Byte) :
    decodeDelta (encode (.small dr dg db) ++ rest) = .ok (.small dr dg db, rest) := by
  obtain ⟨hr, hg, hb⟩ := of_decide_eq_true hw
  obtain ⟨htag, hfr, hfg, hfb⟩ := field_smallByte (bias_lt (v := dr) (B := 2) (by omega)) (bias_lt (v := dg) (B := 2) (by omega))
    (bias_lt (v := db) (B := 2) (by omega))
  rw [encode, List.singleton_append, decodeDelta_small htag, hfr, hfg, hfb, unbias_bias (by omega), unbias_bias (by omega),
    unbias_bias (by omega)]

theorem decodeDelta_encode_inter (hw : WellFormed (.inter dr dg db)) (rest : List Byte) :
    decodeDelta (encode (.inter dr dg db) ++ rest) = .ok (.inter dr dg db, rest) := by
  obtain ⟨hg, hr, hb⟩ := of_decide_eq_true hw
  obtain ⟨htag, hfg⟩ := field_interTag (bias_lt (v := dg) (B := 32) (by omega))
  obtain ⟨hfr, hfb⟩ := field_halves (bias_lt (v := dr - dg) (B := 8) (by omega)) (bias_lt (v := db - dg) (B := 8) (by omega))
  rw [encode, List.cons_append, List.singleton_append, decodeDelta_inter htag, hfg, hfr, hfb, unbias_bias (by omega),
    unbias_bias (by omega), unbias_bias (by omega), add_sub_cancel, add_sub_cancel]

/-- The three primary channels share one layout: the fields read give the deltas back. -/
theorem exists_bigBytes_deltas {tag : Nat} {p a b : Int} (ht : tag < 16) (hp : within p (-128) 127)
    (ha : within (a - p) (-32) 31) (hb : within (b - p) (-32) 31) :
    ∃ b0 b1 b2, bigBytes tag (bias p 128) (bias (a - p) 32) (bias (b - p) 32) = [b0, b1, b2] ∧ field b0 4 4 = tag ∧
      unbias (bigP b0 b1) 128 = p ∧ p + unbias (bigS1 b1 b2) 32 = a ∧ p + unbias (bigS2 b2) 32 = b := by
  obtain ⟨b0, b1, b2, hbytes, htag, hP, hS1, hS2⟩ := exists_bigBytes_eq (tag := tag) (p := bias p 128)
    (s1 := bias (a - p) 32) (s2 := bias (b - p) 32) ht (bias_lt (by omega)) (bias_lt (by omega)) (bias_lt (by omega))
  refine ⟨b0, b1, b2, hbytes, htag, ?_⟩
  rw [hP, hS1, hS2, unbias_bias (by omega), unbias_bias (by omega), unbias_bias (by omega), add_sub_cancel, add_sub_cancel]
  exact ⟨rfl, rfl, rfl⟩

theorem decodeDelta_encode_bigr (hw : WellFormed (.bigr dr dg db)) (rest : List Byte) :
    decodeDelta (encode (.bigr dr dg db) ++ rest) = .ok (.bigr dr dg db, rest) := by
  obtain ⟨hp, ha, hb⟩ := of_decide_eq_true hw
  obtain ⟨b0, b1, b2, hbytes, htag, hdr, hdg, hdb⟩ := exists_bigBytes_deltas (tag := 8) (by decide) hp ha hb
  rw [encode, hbytes]
  exact (decodeDelta_bigr htag b1 b2 rest).trans (by rw [hdr, hdg, hdb])

theorem decodeDelta_encode_bigg (hw : WellFormed (.bigg dr dg db)) (rest : List Byte) :
    decodeDelta (encode (.bigg dr dg db) ++ rest) = .ok (.bigg dr dg db, rest) := by
  obtain ⟨hp, ha, hb⟩ := of_decide_eq_true hw
  obtain ⟨b0, b1, b2, hbytes, htag, hdg, hdr, hdb⟩ := exists_bigBytes_deltas (tag := 9) (by decide) hp ha hb
  rw [encode, hbytes]
  exact (decodeDelta_bigg htag b1 b2 rest).trans (by rw [hdg, hdr, hdb])

theorem decodeDelta_encode_bigb (hw : WellFormed (.bigb dr dg db)) (rest : List Byte) :
    decodeDelta (encode (.bigb dr dg db) ++ rest) = .ok (.bigb dr dg db, rest) := by
  obtain ⟨hp, ha, hb⟩ := of_decide_eq_true hw
  obtain ⟨b0, b1, b2, hbytes, htag, hdb, hdr, hdg⟩ := exists_bigBytes_deltas (tag := 10) (by decide) hp ha hb
  rw [encode, hbytes]
  exact (decodeDelta_bigb htag b1 b2 rest).trans (by rw [hdb, hdr, hdg])

end

theorem decodeRecord_encode_pack1 (a b c d e f g h : BitVec 1) (rest : List Byte) :
    decodeRecord .pack1 (encode (.pack1 a b c d e f g h) ++ rest) = .ok (.pack1 a b c d e f g h, rest) := by
  have hlane : ∀ j (hj : j < 8), lane (byteOf (packByte 1 ([a, b, c, d, e, f, g, h].map BitVec.toNat))) 1 j =
      [a, b, c, d, e, f, g, h][j] := fun j hj => lane_byteOf_packByte_map _ le_rfl hj
  simp only [List.map_cons, List.map_nil] at hlane
  simp only [encode, List.singleton_append, decodeRecord]
  rw [hlane 0 (by decide), hlane 1 (by decide), hlane 2 (by decide), hlane 3 (by decide), hlane 4 (by decide),
    hlane 5 (by decide), hlane 6 (by decide), hlane 7 (by decide)]
  rfl

theorem decodeRecord_encode_pack2 (a b c d : BitVec 2) (rest : List Byte) :
    decodeRecord .pack2 (encode (.pack2 a b c d) ++ rest) = .ok (.pack2 a b c d, rest) := by
  have hlane : ∀ j (hj : j < 4), lane (byteOf (packByte 2 ([a, b, c, d].map BitVec.toNat))) 2 j = [a, b, c, d][j] :=
    fun j hj => lane_byteOf_packByte_map _ le_rfl hj
  simp only [List.map_cons, List.map_nil] at hlane
  simp only [encode, List.singleton_append, decodeRecord]
  rw [hlane 0 (by decide), hlane 1 (by decide), hlane 2 (by decide), hlane 3 (by decide)]
  rfl

theorem decodeRecord_encode_pack4 (a b : BitVec 4) (rest : List Byte) :
    decodeRecord .pack4 (encode (.pack4 a b) ++ rest) = .ok (.pack4 a b, rest) := by
  have hlane : ∀ j (hj : j < 2), lane (byteOf (packByte 4 ([a, b].map BitVec.toNat))) 4 j = [a, b][j] :=
    fun j hj => lane_byteOf_packByte_map _ le_rfl hj
  simp only [List.map_cons, List.map_nil] at hlane
  simp only [encode, List.singleton_append, decodeRecord]
  rw [hlane 0 (by decide), hlane 1 (by decide)]
  rfl

/-- Settles O1: by the format of the instruction. -/
theorem decodeEncode : Obligations.DecodeEncode := by
  intro i rest hw
  cases i
  case hdr12 v w h => exact (decode_header _).trans (decodeHeader_encode_hdr12 (of_decide_eq_true hw) w h rest)
  case hdr3 hl w h d f => exact (decode_header _).trans (decodeHeader_encode_hdr3 hl w h d f rest)
  case pal | pix | run | idx | runi => rfl
  case pack1 => exact decodeRecord_encode_pack1 ..
  case pack2 => exact decodeRecord_encode_pack2 ..
  case pack4 => exact decodeRecord_encode_pack4 ..
  case small => exact decodeDelta_encode_small hw rest
  case inter => exact decodeDelta_encode_inter hw rest
  case bigr => exact decodeDelta_encode_bigr hw rest
  case bigg => exact decodeDelta_encode_bigg hw rest
  case bigb => exact decodeDelta_encode_bigb hw rest
  case new => rfl
  case reservedV4 b0 =>
    obtain ⟨hlo, hhi⟩ : 0xB0 ≤ b0.toNat ∧ b0.toNat ≤ 0xFE := of_decide_eq_true hw
    exact decodeDelta_reserved hlo hhi rest
  case nop | enc | dec | clr => rfl

/-! ### Decoding, then encoding -/

theorem encode_of_small {b0 : Byte} (h : field b0 6 2 = 0) :
    encode (.small (unbias (field b0 4 2) 2) (unbias (field b0 2 2) 2) (unbias (field b0 0 2) 2)) = [b0] := by
  simp only [encode, bias_unbias]
  rw [byteOf_eq]
  simp only [field] at h ⊢; omega

theorem encode_of_inter {b0 : Byte} (h : field b0 6 2 = 1) (b1 : Byte) :
    encode (.inter (unbias (field b0 0 6) 32 + unbias (field b1 4 4) 8) (unbias (field b0 0 6) 32)
      (unbias (field b0 0 6) 32 + unbias (field b1 0 4) 8)) = [b0, b1] := by
  simp only [encode, add_sub_cancel_left, bias_unbias]
  rw [byteOf_eq (b := b0) (by simp only [field] at h ⊢; omega), byteOf_eq (b := b1) (by simp only [field]; omega)]

/-- A block is the encoding of what the decoder reads from it, and that is well formed (R91). -/
theorem encode_of_decodeDelta {S rest : List Byte} {i : Instr} (h : decodeDelta S = .ok (i, rest)) :
    S = encode i ++ rest ∧ WellFormed i := by
  have hbig : ∀ b0 b1 b2, within (unbias (bigP b0 b1) 128) (-128) 127 ∧ within (unbias (bigS1 b1 b2) 32) (-32) 31 ∧
      within (unbias (bigS2 b2) 32) (-32) 31 := fun b0 b1 b2 => by
    have := bigP_lt b0 b1; have := bigS1_lt b1 b2; have := bigS2_lt b2
    exact ⟨within_unbias (by omega), within_unbias (by omega), within_unbias (by omega)⟩
  rcases S with _ | ⟨b0, t⟩
  · cases h
  simp only [decodeDelta] at h
  split_ifs at h with hff h0 h1 h8 h9 h10
  · subst hff
    split at h <;> cases h
    exact ⟨rfl, rfl⟩
  · cases h
    refine ⟨by rw [encode_of_small h0]; rfl, decide_eq_true ?_⟩
    have := field_lt b0 4 2; have := field_lt b0 2 2; have := field_lt b0 0 2
    exact ⟨within_unbias (by omega), within_unbias (by omega), within_unbias (by omega)⟩
  · split at h <;> cases h
    rename_i b1
    refine ⟨by rw [encode_of_inter h1]; rfl, decide_eq_true ?_⟩
    have := field_lt b0 0 6; have := field_lt b1 4 4; have := field_lt b1 0 4
    simp only [add_sub_cancel_left]
    exact ⟨within_unbias (by omega), within_unbias (by omega), within_unbias (by omega)⟩
  · split at h <;> cases h
    refine ⟨?_, decide_eq_true ?_⟩
    · simp only [encode, add_sub_cancel_left, bias_unbias, bigBytes_fields h8]; rfl
    · simpa only [add_sub_cancel_left] using hbig _ _ _
  · split at h <;> cases h
    refine ⟨?_, decide_eq_true ?_⟩
    · simp only [encode, add_sub_cancel_left, bias_unbias, bigBytes_fields h9]; rfl
    · simpa only [add_sub_cancel_left] using hbig _ _ _
  · split at h <;> cases h
    refine ⟨?_, decide_eq_true ?_⟩
    · simp only [encode, add_sub_cancel_left, bias_unbias, bigBytes_fields h10]; rfl
    · simpa only [add_sub_cancel_left] using hbig _ _ _
  · cases h
    have hne : b0.toNat ≠ 0xFF := fun e => hff (BitVec.eq_of_toNat_eq e)
    refine ⟨rfl, decide_eq_true ?_⟩
    simp only [field] at h0 h1 h8 h9 h10
    omega

/-- A record is the encoding of what the decoder reads from it. -/
theorem encode_of_decodeRecord {k : RecordKind} {S rest : List Byte} {i : Instr} (h : decodeRecord k S = .ok (i, rest)) :
    S = encode i ++ rest := by
  cases k
  case delta => exact (encode_of_decodeDelta ((decodeRecord_delta S).symm.trans h)).1
  case pix => rcases S with _ | ⟨r, _ | ⟨g, _ | ⟨b, S⟩⟩⟩ <;> cases h; rfl
  case run => rcases S with _ | ⟨n, _ | ⟨r, _ | ⟨g, _ | ⟨b, S⟩⟩⟩⟩ <;> cases h; rfl
  case idx => rcases S with _ | ⟨x, S⟩ <;> cases h; rfl
  case runi => rcases S with _ | ⟨n, _ | ⟨x, S⟩⟩ <;> cases h; rfl
  case pack1 | pack2 | pack4 =>
    rcases S with _ | ⟨b, S⟩ <;> cases h
    exact congrArg (· :: rest) (byteOf_eq (packByte_lanesOf (by decide) b)).symm

/-- Settles O2: by the context the bytes were read in. -/
theorem encodeDecode : Obligations.EncodeDecode := by
  intro c bs rest i hc h
  rcases c with _ | _ | _ | k
  · exact absurd rfl hc
  · exact ⟨encode_of_decodeHeader ((decode_header bs).symm.trans h), fun e => by cases e⟩
  · refine ⟨?_, fun e => by cases e⟩
    rcases bs with _ | ⟨r, _ | ⟨g, _ | ⟨b, bs⟩⟩⟩ <;> cases h
    rfl
  · rw [decode_stream] at h
    refine ⟨encode_of_decodeRecord h, fun e => ?_⟩
    cases e
    exact (encode_of_decodeDelta ((decodeRecord_delta bs).symm.trans h)).2

end Sys2Proof.Machine
end

section
/-! The header lines that complete: what each selects and opens, and that it changes nothing else. -/

namespace Sys2Proof.Machine

/-! ### What a completed header line leaves -/

/-- The pixel stream begins where the image fits and a packed stream has its length (R57, R225). -/
theorem beginStream_of_opens {h : Hdr} {s : State} (hs : StreamOpens h s.work.rp s) :
    beginStream h s = .ok (setJob (.decStream h) s) := by
  obtain ⟨hfit, hlen⟩ := hs
  unfold beginStream
  rw [if_neg (by simp [hfit])]
  split
  · rename_i d hd
    rw [if_pos (hlen d hd)]
  · rfl

theorem headerFrame_setJob (j : Job) (n k : Nat) (s : State) : HeaderFrame s (setJob j (skipBytes n (setPalSize k s))) where
  status := rfl
  err := rfl
  registers := by constructor <;> rfl
  memories := by constructor <;> intro <;> rfl

/-! ### `HDR12` -/

theorem exec_hdr12_of_job {s : State} (hj : s.job = .decHeader) (v : Byte) (w h : Half) :
    exec (.hdr12 v w h) s = settle s (parse12 v w h s) := by
  simp only [exec, execHdr12, hj]

theorem parse12_of_selected {v : Byte} {kind : RecordKind} {s : State} (w h : Half) (hv : v = 1 ∨ v = 2 ∨ v = 4)
    (hlen : 12 ≤ s.inLen.toNat) (hk : streamKind v 0 0 = some kind) :
    parse12 v w h s = beginStream (plainHdr v w h kind) (skipBytes 12 (setPalSize 0 s)) := by
  unfold parse12
  rw [if_neg (by rw [not_or, not_not]; exact ⟨hv, by omega⟩), hk]
  rfl

/-- Settles O26: the version selects the stream, and it opens. -/
theorem hdr12Result : Obligations.Hdr12Result := by
  intro s v w h kind hd hj hv hlen hhd hopen
  have hsel : (v = 1 ∨ v = 2 ∨ v = 4) ∧ streamKind v 0 0 = some kind := by
    rcases hv with ⟨rfl, rfl⟩ | ⟨rfl, rfl⟩ | ⟨rfl, rfl⟩ <;> exact ⟨by decide, rfl⟩
  obtain ⟨hv', hk⟩ := hsel
  subst hhd
  have hnext := beginStream_of_opens (s := skipBytes 12 (setPalSize 0 s)) hopen
  refine ⟨_, ?_, headerFrame_setJob _ 12 0 s, rfl, rfl, rfl⟩
  rw [exec_hdr12_of_job hj, parse12_of_selected w h hv' hlen hk]
  exact congrArg (settle s) hnext

/-! ### `HDR3` -/

theorem exec_hdr3_of_job {s : State} (hj : s.job = .decHeader) (hl w h : Half) (d f : Byte) :
    exec (.hdr3 hl w h d f) s = settle s (parse3 hl w h d f s) := by
  simp only [exec, execHdr3, hj]

theorem parse3_of_selected {hl : Half} {d f : Byte} {kind : RecordKind} {s : State} (w h : Half)
    (hlegal : legalHdr3 hl.toNat d f) (hlen : hl.toNat ≤ s.inLen.toNat) (hk : streamKind 3 d f = some kind) :
    parse3 hl w h d f s =
      if paletteEntries hl d = 0 then
        beginStream (version3Hdr hl w h d f kind) (skipBytes 14 (setPalSize (paletteEntries hl d) s))
      else .ok (setJob (.decPalette (version3Hdr hl w h d f kind) 0) (skipBytes 14 (setPalSize (paletteEntries hl d) s))) := by
  unfold parse3
  rw [if_neg (by rw [not_or, not_not]; exact ⟨hlegal, by omega⟩), hk]
  rfl

/-- Settles O27: depth and flag select the record kind; with no palette entry the stream opens at once. -/
theorem hdr3Result : Obligations.Hdr3Result := by
  intro s hl w h d f kind k hd hj hlegal hlen hrow hk hhd hopen
  obtain ⟨hentries, -, h256⟩ := legalHdr3_entries hlegal
  obtain rfl : k = paletteEntries hl d := by omega
  have hkind : streamKind 3 d f = some kind := by
    rcases hrow with ⟨rfl, rfl, rfl⟩ | ⟨rfl, rfl, rfl⟩ | ⟨rfl, rfl, rfl⟩ | ⟨rfl, rfl, rfl⟩ | ⟨rfl, rfl, rfl⟩ |
      ⟨rfl, rfl, rfl⟩ | ⟨rfl, rfl, rfl⟩ <;> rfl
  have hsize : (BitVec.ofNat 9 (paletteEntries hl d)).toNat = paletteEntries hl d := by
    rw [BitVec.toNat_ofNat]; omega
  subst hhd
  rw [exec_hdr3_of_job hj, parse3_of_selected w h hlegal hlen hkind]
  by_cases h0 : paletteEntries hl d = 0
  · have hnext := beginStream_of_opens (s := skipBytes 14 (setPalSize (paletteEntries hl d) s)) (hopen h0)
    refine ⟨_, ?_, headerFrame_setJob _ 14 _ s, (if_pos h0).symm, hsize, rfl⟩
    rw [if_pos h0]
    exact congrArg (settle s) hnext
  · refine ⟨_, ?_, headerFrame_setJob _ 14 _ s, (if_neg h0).symm, hsize, rfl⟩
    rw [if_neg h0]
    rfl

end Sys2Proof.Machine
end

section
/-! The context that an instruction needs: where it is not open `exec` refuses, and no step executes it there. -/

namespace Sys2Proof.Machine

/-! ### Open contexts -/

/-- The command in progress is in the phase that reads context `c`; `CMD` is always open (R60; log 20). -/
def CtxOpen (c : Ctx) (s : State) : Prop :=
  match c with
  | .cmd => True
  | .header => s.job = .decHeader
  | .palette => ∃ hd k, s.job = .decPalette hd k
  | .stream kind => ∃ h, s.job = .decStream h ∧ h.kind = kind

section
variable {s : State} {i : Instr}

/-- A record of a stream is executed by what all records share. -/
theorem exec_stream {kind : RecordKind} (hi : ctxOf i = .stream kind) :
    ∃ mn body, exec i s = inStream mn kind s body := by
  cases i <;> cases hi
  all_goals exact ⟨_, _, rfl⟩

theorem inStream_of_left_over {mn : String} {kind : RecordKind} {h : Hdr} {body : Hdr → Except Stop State}
    (hj : s.job = .decStream h) (hk : h.kind = kind) (hp : h.pixels ≤ s.work.pix) :
    inStream mn kind s body = .next (raise .pixelCountMismatch s) := by
  simp only [inStream, hj, if_pos hk, if_pos hp, settle_err]

/-- An instruction of a file is settled where its context is open, and refused elsewhere (log 20). -/
theorem exec_cases (hi : ctxOf i ≠ .cmd) :
    (CtxOpen (ctxOf i) s ∧ ∃ r, exec i s = settle s r) ∨
    (¬ CtxOpen (ctxOf i) s ∧ ∃ mn, exec i s = .refused (.outOfContext mn)) := by
  cases hc : ctxOf i with
  | cmd => exact absurd hc hi
  | header =>
    cases i <;> cases hc
    all_goals
      simp only [exec, execHdr12, execHdr3, CtxOpen]
      split
      · exact .inl ⟨‹_›, _, rfl⟩
      · exact .inr ⟨‹_›, _, rfl⟩
  | palette =>
    cases i <;> cases hc
    simp only [exec, execPal, CtxOpen]
    split
    · exact .inl ⟨⟨_, _, ‹_›⟩, _, rfl⟩
    · rename_i hj
      exact .inr ⟨fun ⟨hd, k, h⟩ => hj hd k h, _, rfl⟩
  | stream kind =>
    obtain ⟨mn, body, he⟩ := exec_stream (s := s) hc
    rw [he, inStream]
    split
    · rename_i h hj
      by_cases hk : h.kind = kind
      · rw [if_pos hk]
        exact .inl ⟨⟨h, hj, hk⟩, _, rfl⟩
      · rw [if_neg hk]
        refine .inr ⟨fun ⟨h', hj', hk'⟩ => hk ?_, _, rfl⟩
        cases hj.symm.trans hj'
        exact hk'
    · rename_i hj
      exact .inr ⟨fun ⟨h, hj', _⟩ => hj h hj', _, rfl⟩

/-! ### No step refuses -/

theorem unlessBusy_not_refused (act : State → State) (s : State) (x : Refusal) : unlessBusy act s ≠ .refused x := by
  unfold unlessBusy
  split_ifs <;> simp

theorem exec_not_refused (ho : CtxOpen (ctxOf i) s) (x : Refusal) : exec i s ≠ .refused x := by
  by_cases hi : ctxOf i = .cmd
  · cases i <;> cases hi
    all_goals exact unlessBusy_not_refused _ s x
  · obtain ⟨-, r, he⟩ | ⟨hclosed, -⟩ := exec_cases (s := s) hi
    · rw [he]; exact settle_not_refused s r x
    · exact absurd ho hclosed

theorem runRecordAt_not_refused {c : Ctx} (ho : CtxOpen c s) (x : Refusal) : runRecordAt c s ≠ .refused x := by
  unfold runRecordAt
  split
  · simp
  · simp
  · split
    · simp
    · rename_i hd
      exact exec_not_refused (by rwa [decode_ctx hd]) x

theorem engineStep_not_refused (s : State) (x : Refusal) : engineStep s ≠ .refused x := by
  unfold engineStep
  split
  case h_1 => simp
  case h_2 hj =>
    unfold headerParseStep
    split_ifs
    · exact runRecordAt_not_refused (c := .header) hj x
    · simp
  case h_3 hj => exact runRecordAt_not_refused (c := .palette) ⟨_, _, hj⟩ x
  case h_4 h hj =>
    unfold decodeStep
    split_ifs
    · exact runRecordAt_not_refused (c := .stream h.kind) ⟨h, hj, rfl⟩ x
    · exact settle_not_refused s _ x
  all_goals exact settle_not_refused s _ x

theorem readCell_not_refused {α : Type} {m : Space} {mem : Memory α} {cap : Option Nat} {resp : α → Resp} {a : Nat}
    (x : Refusal) : readCell m mem cap resp a s ≠ .refused x := by
  unfold readCell
  split_ifs
  · simp
  · split <;> simp

theorem portCommand_not_refused (v : Word) (x : Refusal) : portCommand v s ≠ .refused x := by
  have hcmd : ctxOf (decodeCmd (v.setWidth 2)) = .cmd := by
    unfold decodeCmd
    split_ifs <;> rfl
  exact exec_not_refused (by rw [hcmd]; exact trivial) x

theorem hostAccess_not_refused (op : HostOp) (x : Refusal) : hostAccess op s ≠ .refused x := by
  unfold hostAccess
  split_ifs
  · simp
  unfold portAccess
  cases op with
  | tick | wait | rst => simp
  | readReg off =>
    simp only [portReadReg]
    split <;> simp
  | writeReg off v =>
    dsimp only
    split_ifs
    · exact portCommand_not_refused v x
    · unfold portWriteReg
      split <;> simp
  | readIbuf | readObuf | readPal => exact readCell_not_refused x
  | writeIbuf =>
    simp only [portWriteIbuf]
    split_ifs <;> simp
  | pixelRead =>
    simp only [portPixelRead]
    split_ifs
    · exact readCell_not_refused x
    · simp
  | pixelWrite =>
    simp only [portPixelWrite]
    split_ifs <;> simp

theorem step_not_refused (s : State) (x : Refusal) : step s ≠ .refused x := by
  unfold step machineStep
  split
  · exact engineStep_not_refused s x
  · exact engineStep_not_refused _ x
  · split_ifs
    · exact engineStep_not_refused s x
    · exact hostAccess_not_refused _ x
  · exact hostAccess_not_refused _ x

end

/-- Settles O41: a record is executed by `inStream`, whose first test is for the last pixel; and a step decodes in the
context that is open. -/
theorem contextOfRecords : Obligations.ContextOfRecords := by
  refine ⟨step_not_refused, fun s i => ⟨fun h kind hi hj hk hp => ?_, fun hcmd hhdr hpal hstream => ?_⟩⟩
  · obtain ⟨mn, body, he⟩ := exec_stream (s := s) hi
    rw [he, inStream_of_left_over hj hk hp]
  · obtain ⟨hopen, -⟩ | ⟨-, hrefused⟩ := exec_cases (s := s) hcmd
    · exfalso
      cases hc : ctxOf i with
      | cmd => exact hcmd hc
      | header => exact hhdr ⟨hc, by rwa [hc] at hopen⟩
      | palette =>
        rw [hc] at hopen
        obtain ⟨hd, k, hj⟩ := hopen
        exact hpal hd k ⟨hc, hj⟩
      | stream kind =>
        rw [hc] at hopen
        obtain ⟨h, hj, rfl⟩ := hopen
        exact hstream h ⟨hc, hj⟩
    · exact hrefused

end Sys2Proof.Machine
end

section
/-! The stream decoders undo the stream encoders, format by format, and a version 3 file decodes to its image. -/

namespace Sys2Proof.Machine

/-! ### Runs -/

section
variable {α : Type} {len : Nat} {value : List Byte → Except ErrKind Pixel}

theorem rleDec_nil (fuel : Nat) : rleDec len value fuel 0 [] = .ok [] := by
  cases fuel <;> rfl

/-- One record with a legal count and a value is that many copies of it (R165). -/
theorem rleDec_record {c n fuel : Nat} {v S : List Byte} {p : Pixel} {ps : List Pixel} (hc : 0 < c) (h255 : c ≤ 255)
    (hcn : c ≤ n) (hv : value v = .ok p) (hlen : v.length + 1 = len) (hS : rleDec len value fuel (n - c) S = .ok ps) :
    rleDec len value (fuel + 1) n (byteOf c :: v ++ S) = .ok (List.replicate c p ++ ps) := by
  have hcount : (byteOf c).toNat = c := Laws.byteOf_toNat (by omega)
  have hne : byteOf c ≠ 0 := fun e => by rw [← toNat_eq_zero, hcount] at e; omega
  have htake : (byteOf c :: v ++ S).take len = byteOf c :: v := by rw [← hlen]; simp
  have hdrop : (byteOf c :: v ++ S).drop len = S := by rw [← hlen]; simp
  have hlong : ¬ (byteOf c :: v ++ S).length < len := by rw [← hlen]; simp
  rw [rleDec, if_neg (by omega), if_neg hlong, htake, hdrop]
  simp only [if_neg hne, hv, hcount, if_neg (not_lt.2 hcn), hS]

variable [DecidableEq α] {bytes : α → List Byte} {pix : α → Pixel}

/-- With a run of `n` symbols `v` open. -/
theorem rleDec_rleFrom {ss : List α} {v : α} {n fuel : Nat} (hn : 0 < n) (h255 : n ≤ 255)
    (hval : ∀ s ∈ v :: ss, value (bytes s) = .ok (pix s) ∧ (bytes s).length + 1 = len) (hf : n + ss.length ≤ fuel) :
    rleDec len value fuel (n + ss.length) ((rleFrom v n ss).flatMap fun x => byteOf x.1 :: bytes x.2) =
      .ok (List.replicate n (pix v) ++ ss.map pix) := by
  induction ss generalizing v n fuel with
  | nil =>
    obtain ⟨fuel, rfl⟩ := Nat.exists_eq_succ_of_ne_zero (show fuel ≠ 0 by omega)
    obtain ⟨hv, hlen⟩ := hval v (by simp)
    refine rleDec_record hn h255 le_rfl hv hlen ?_
    rw [List.length_nil, Nat.add_zero, Nat.sub_self]
    exact rleDec_nil fuel
  | cons s ss ih =>
    obtain ⟨hv, hlen⟩ := hval v (by simp)
    have htail : ∀ x ∈ s :: ss, value (bytes x) = .ok (pix x) ∧ (bytes x).length + 1 = len := fun x hx =>
      hval x (List.mem_cons_of_mem v hx)
    rw [List.length_cons] at hf ⊢
    simp only [rleFrom]
    split_ifs with hgo
    · obtain ⟨rfl, hlt⟩ := hgo
      have hrun := ih (Nat.succ_pos n) hlt htail (fuel := fuel) (by omega)
      rw [Nat.succ_add_eq_add_succ, List.replicate_succ', List.append_assoc] at hrun
      exact hrun
    · obtain ⟨fuel, rfl⟩ := Nat.exists_eq_succ_of_ne_zero (show fuel ≠ 0 by omega)
      rw [List.flatMap_cons]
      refine rleDec_record hn h255 (by omega) hv hlen ?_
      rw [Nat.add_sub_cancel_left, Nat.add_comm]
      exact ih Nat.one_pos (by decide) htail (by omega)

/-- Run-length decoding undoes run-length encoding, whatever the symbols and their bytes are (R168). -/
theorem rleDec_rleEnc {ss : List α} (hval : ∀ s ∈ ss, value (bytes s) = .ok (pix s) ∧ (bytes s).length + 1 = len) :
    rleDec len value ss.length ss.length ((rleEnc ss).flatMap fun x => byteOf x.1 :: bytes x.2) = .ok (ss.map pix) := by
  cases ss with
  | nil => exact rleDec_nil 0
  | cons s ss =>
    have hrun := rleDec_rleFrom (n := 1) Nat.one_pos (by decide) hval le_rfl
    rw [Nat.add_comm] at hrun
    exact hrun

end

/-! ### Packed indices -/

/-- The lanes of a packed group are its indices, as many as it has (R120, R123). -/
theorem take_lanesOf_packByte {d n : Nat} {lanes : List Nat} (hb : ∀ x ∈ lanes, x < 2 ^ d)
    (hn : lanes.length = min n (lanesPerByte d)) : (lanesOf d (byteOf (packByte d lanes))).take n = lanes := by
  have hlen : d * lanes.length ≤ 8 := by
    rw [hn]
    exact le_trans (Nat.mul_le_mul_left d (Nat.min_le_right n _)) (Nat.mul_div_le 8 d)
  refine List.ext_getElem (by simp [lanesOf_length, hn]) fun j _ hj => ?_
  rw [List.getElem_take, ← lane_byteOf_packByte hb hlen hj]
  simp [lanesOf]

section
variable {d : Nat} (hk : 0 < lanesPerByte d)
include hk

theorem ceilDiv_of_pos {n : Nat} (hn : 0 < n) : ceilDiv n (lanesPerByte d) = ceilDiv (n - lanesPerByte d) (lanesPerByte d) + 1 := by
  obtain ⟨m, hm⟩ : ∃ m, ceilDiv n (lanesPerByte d) = m + 1 := Nat.exists_eq_succ_of_ne_zero (by
    unfold ceilDiv
    exact (Nat.div_pos (by omega) hk).ne')
  rw [hm, ← ceilDiv_tail hk hn hm.symm]

theorem packBytes_length {fuel : Nat} {idx : List Nat} (hf : idx.length ≤ fuel) :
    (packBytes d fuel idx).length = ceilDiv idx.length (lanesPerByte d) := by
  induction fuel generalizing idx with
  | zero =>
    obtain rfl : idx = [] := List.length_eq_zero_iff.1 (by omega)
    exact (Nat.div_eq_of_lt (by simp; omega)).symm
  | succ fuel ih =>
    cases idx with
    | nil => exact (Nat.div_eq_of_lt (by simp; omega)).symm
    | cons i is =>
      rw [packBytes, List.length_cons, ih (by rw [List.length_drop]; omega), List.length_drop, ← ceilDiv_of_pos hk (by simp)]
      simp

theorem unpack_packBytes {fuel : Nat} {idx : List Nat} (hb : ∀ i ∈ idx, i < 2 ^ d) (hf : idx.length ≤ fuel) :
    unpack d idx.length (packBytes d fuel idx) = idx := by
  induction fuel generalizing idx with
  | zero =>
    obtain rfl : idx = [] := List.length_eq_zero_iff.1 (by omega)
    rfl
  | succ fuel ih =>
    cases idx with
    | nil => rfl
    | cons i is =>
      have hgroup := take_lanesOf_packByte (n := (i :: is).length) (lanes := (i :: is).take (lanesPerByte d))
        (fun x hx => hb x (List.mem_of_mem_take hx)) (by rw [List.length_take, Nat.min_comm])
      have hrest := ih (idx := (i :: is).drop (lanesPerByte d)) (fun x hx => hb x (List.mem_of_mem_drop hx))
        (by rw [List.length_drop]; omega)
      rw [List.length_drop] at hrest
      rw [packBytes, unpack_cons, hgroup, hrest, List.take_append_drop]
      simp

/-- `PackDec` looks up the indices that were packed (R125, R225). -/
theorem packDec_pack (pal : List Pixel) {idx : List Nat} (hb : ∀ i ∈ idx, i < 2 ^ d) :
    packDec d pal idx.length (pack d idx) = lookupAll pal idx := by
  rw [packDec, pack, if_pos (packBytes_length hk le_rfl), unpack_packBytes hk hb le_rfl]

end

/-! ### Indices -/

section
variable {pal px : List Pixel}

theorem indexIn_lt {p : Pixel} (hp : p ∈ pal) : indexIn pal p < pal.length := List.idxOf_lt_length_of_mem hp

theorem lookupIn_indexIn {p : Pixel} (hp : p ∈ pal) : lookupIn pal (indexIn pal p) = .ok p := by
  have hget : pal[indexIn pal p]? = some p := by
    rw [List.getElem?_eq_getElem (indexIn_lt hp)]
    exact congrArg some (List.getElem_idxOf (indexIn_lt hp))
  rw [lookupIn, hget]

/-- The indices of an image name its pixels (R110, R112). -/
theorem lookupAll_indexIn (hp : ∀ p ∈ px, p ∈ pal) : lookupAll pal (px.map (indexIn pal)) = .ok px := by
  induction px with
  | nil => rfl
  | cons p px ih =>
    rw [List.forall_mem_cons] at hp
    rw [List.map_cons, lookupAll, lookupIn_indexIn hp.1, ih hp.2]

theorem lookupAll_eq_map {idx : List Nat} {f : Nat → Pixel} (h : ∀ i ∈ idx, lookupIn pal i = .ok (f i)) :
    lookupAll pal idx = .ok (idx.map f) := by
  induction idx with
  | nil => rfl
  | cons i is ih =>
    rw [List.forall_mem_cons] at h
    rw [lookupAll, h.1, ih h.2]
    rfl

/-- `IdxDec` looks up the indices that stand in the stream (R224). -/
theorem idxDec_bytes {idx : List Nat} (hb : ∀ i ∈ idx, i < 256) :
    idxDec pal idx.length (idx.map byteOf) = lookupAll pal idx := by
  induction idx with
  | nil => rfl
  | cons i is ih =>
    rw [List.forall_mem_cons] at hb
    rw [List.map_cons, List.length_cons, idxDec, Laws.byteOf_toNat hb.1, ih hb.2]
    rfl

/-- `RleDec` looks up the indices whose runs stand in the stream (R167, R168). -/
theorem runiDec_rleEnc {idx : List Nat} (hpal : pal.length ≤ 256) (hb : ∀ i ∈ idx, i < pal.length) :
    rleDec 2 (runiValue pal) idx.length idx.length ((rleEnc idx).flatMap fun x => [byteOf x.1, byteOf x.2]) =
      lookupAll pal idx := by
  have hentry : ∀ i ∈ idx, lookupIn pal i = .ok (pal.getD i Pixel.black) := fun i hi => by
    rw [lookupIn, List.getElem?_eq_getElem (hb i hi), List.getD_eq_getElem _ _ (hb i hi)]
  rw [lookupAll_eq_map hentry]
  refine rleDec_rleEnc (bytes := fun i => [byteOf i]) fun i hi => ⟨?_, rfl⟩
  rw [runiValue, Laws.byteOf_toNat (lt_of_lt_of_le (hb i hi) hpal), hentry i hi]

/-- A stream of palette indices decodes to the pixels they stand for, in whatever order the palette is (R107). -/
theorem streamDec_streamEnc_indexed {kind : RecordKind} (hk : indexed kind = true) (hp : ∀ p ∈ px, p ∈ pal)
    (h256 : pal.length ≤ 256) (hcap : ∀ d, packDepth kind = some d → pal.length ≤ 2 ^ d) :
    streamDec kind pal px.length (streamEnc kind pal px) = .ok px := by
  have hidx : ∀ i ∈ px.map (indexIn pal), i < pal.length := fun i hi => by
    obtain ⟨p, hpx, rfl⟩ := List.mem_map.1 hi
    exact indexIn_lt (hp p hpx)
  have hlen : (px.map (indexIn pal)).length = px.length := List.length_map _
  have hpack : ∀ d, packDepth kind = some d → packDec d pal px.length (pack d (px.map (indexIn pal))) = .ok px := by
    intro d hd
    have hdec := packDec_pack (lanesPerByte_pos hd) pal fun i hi => lt_of_lt_of_le (hidx i hi) (hcap d hd)
    rwa [hlen, lookupAll_indexIn hp] at hdec
  cases kind
  case pix | run | delta => cases hk
  case pack1 | pack2 | pack4 => exact hpack _ rfl
  case idx =>
    have hdec := idxDec_bytes (pal := pal) fun i hi => lt_of_lt_of_le (hidx i hi) h256
    rw [hlen, lookupAll_indexIn hp, List.map_map] at hdec
    exact hdec
  case runi =>
    have hdec := runiDec_rleEnc h256 hidx
    rw [hlen, lookupAll_indexIn hp] at hdec
    exact hdec

end

/-! ### A whole version 3 file -/

theorem pixelsOf_flatMap (pal : List Pixel) (rest : List Byte) :
    pixelsOf (pal.flatMap pixelBytes ++ rest) = pal ++ pixelsOf rest := by
  induction pal with
  | nil => rfl
  | cons p pal ih => exact congrArg (p :: ·) ih

theorem flatMap_pixelBytes_length (pal : List Pixel) : (pal.flatMap pixelBytes).length = 3 * pal.length := by
  induction pal with
  | nil => rfl
  | cons p pal ih =>
    rw [List.flatMap_cons, List.length_append, ih, List.length_cons]
    simp only [pixelBytes, List.length_cons, List.length_nil]
    omega

/-- `ParseHeader` reads a legal version 3 header back, with its palette verbatim (R183, R217). -/
theorem parseHeader_version3 {hl : Half} {d f : Byte} {kind : RecordKind} {pal : List Pixel} (w h : Half)
    (hlegal : legalHdr3 hl.toNat d f) (hk : streamKind 3 d f = some kind) (hlen : hl.toNat = 14 + 3 * pal.length)
    (stream : List Byte) :
    parseHeader (encode (.hdr3 hl w h d f) ++ (pal.flatMap pixelBytes ++ stream)) =
      .ok (version3Hdr hl w h d f kind, pal) := by
  have hentries : paletteEntries hl d = pal.length := by
    have := (legalHdr3_entries hlegal).1
    omega
  have hfile : ¬ (encode (.hdr3 hl w h d f) ++ (pal.flatMap pixelBytes ++ stream)).length < hl.toNat := by
    rw [List.length_append, List.length_append, encode_hdr3_length, flatMap_pixelBytes_length]
    omega
  have hpal : (pixelsOf (pal.flatMap pixelBytes ++ stream)).take (paletteEntries hl d) = pal := by
    rw [pixelsOf_flatMap, hentries, List.take_left' rfl]
  unfold parseHeader
  rw [decodeHeader_encode_hdr3]
  dsimp only
  rw [if_neg (by rw [not_or, not_not]; exact ⟨hlegal, hfile⟩), hk]
  exact congrArg (fun l => Except.ok (version3Hdr hl w h d f kind, l)) hpal

theorem drop_version3_header (hl w h : Half) (d f : Byte) (pal : List Pixel) (stream : List Byte) :
    (encode (.hdr3 hl w h d f) ++ (pal.flatMap pixelBytes ++ stream)).drop (14 + 3 * pal.length) = stream := by
  rw [← List.append_assoc, List.drop_left' (by rw [List.length_append, encode_hdr3_length, flatMap_pixelBytes_length])]

/-- The header that the encoder writes for a palette of `k` entries is legal (R183, R214, R215). -/
theorem legalHdr3_of_entries {d : Byte} {k : Nat} (r : BitVec 1) (hd : legalConfig 3 d) (h24 : d ≠ 24) (hk : k ≤ 2 ^ d.toNat) :
    legalHdr3 (14 + 3 * k) d (effectiveRle d r) := by
  obtain ⟨-, hdepth⟩ := hd
  refine ⟨hdepth rfl, ?_, ?_, ?_⟩
  · unfold effectiveRle
    split_ifs <;> simp
  · rcases hdepth rfl with rfl | rfl | rfl | rfl | rfl <;> simp [effectiveRle]
  · rw [if_neg h24]
    omega

/-- A file is decoded to its image where its header and its stream are (R195, R228, R230). -/
theorem decodeFile_of_stream {B : List Byte} {hdr : Hdr} {pal px : List Pixel} (hp : parseHeader B = .ok (hdr, pal))
    (hs : streamDec hdr.kind pal px.length (B.drop hdr.headerLen.toNat) = .ok px) (hpx : px.length = hdr.pixels) :
    decodeFile B = .ok ⟨hdr.width, hdr.height, px⟩ := by
  have hd : decodeWithin unbounded B = .ok ⟨hdr, pal, px⟩ := by
    rw [decodeWithin_of_header rfl hp, decodeBody, if_neg (by simp [unbounded]), ← hpx, hs]
    rfl
  rw [decodeFile, hd]
  exact if_pos hpx

/-- The rows of the stream selection that have a palette: indices, as wide as the depth where they are packed (R64). -/
theorem indexed_of_selects {v d : Byte} {r : BitVec 1} {kind : RecordKind} (hp : usesPalette v d) (hs : Selects v d r kind) :
    indexed kind = true ∧ ∀ b, packDepth kind = some b → b = d.toNat := by
  obtain ⟨rfl, h24⟩ := hp
  rcases hs with ⟨hv, -⟩ | ⟨hv, -⟩ | ⟨hv, -⟩ | ⟨-, hrow⟩
  case inr.inr.inr =>
    rcases hrow with ⟨rfl, -, -⟩ | ⟨rfl, -, -⟩ | ⟨rfl, -, rfl⟩ | ⟨rfl, -, rfl⟩ | ⟨rfl, rfl⟩ | ⟨rfl, rfl⟩ | ⟨rfl, rfl⟩
    case inl | inr.inl => exact absurd rfl h24
    all_goals exact ⟨rfl, fun b hb => by cases hb <;> rfl⟩
  all_goals exact absurd hv (by decide)

/-- Settles O13: the header gives the palette back as it stands, and each index names the pixel it was taken from. -/
theorem anyPaletteOrder : Obligations.AnyPaletteOrder := by
  rintro ⟨v, d, r⟩ kind w h pal px ⟨rfl, h24⟩ hlegal hsel hcap hmem hpx
  dsimp only at h24 hlegal hsel hcap
  have h256 : pal.length ≤ 256 := le_trans hcap (two_pow_depth_le hlegal ⟨rfl, h24⟩)
  have hhl : (BitVec.ofNat 16 (14 + 3 * pal.length)).toNat = 14 + 3 * pal.length := by
    rw [BitVec.toNat_ofNat]; omega
  obtain ⟨hindexed, hdepth⟩ := indexed_of_selects ⟨rfl, h24⟩ hsel
  have hparse := parseHeader_version3 w h (by rw [hhl]; exact legalHdr3_of_entries r hlegal h24 hcap)
    (selects_streamKind hsel) hhl (streamEnc kind pal px)
  have hfile : fileWith ⟨3, d, r⟩ kind w h pal px =
      encode (.hdr3 (BitVec.ofNat 16 (14 + 3 * pal.length)) w h d (effectiveRle d r)) ++
        (pal.flatMap pixelBytes ++ streamEnc kind pal px) := List.append_assoc _ _ _
  rw [hfile]
  refine decodeFile_of_stream hparse ?_ hpx
  simp only [version3Hdr, hhl]
  rw [drop_version3_header]
  exact streamDec_streamEnc_indexed hindexed hmem h256 fun b hb => hdepth b hb ▸ hcap

end Sys2Proof.Machine
end

section
/-! The Palette Builder as a function: first occurrences, and the index sequence they give. -/

namespace Sys2Proof.Machine

/-! ### The distinct pixels, pixel by pixel -/

/-- The distinct elements of a list grow at the end, by an element that was not there before. -/
theorem eraseDups_concat {α : Type} [DecidableEq α] (xs : List α) (x : α) :
    (xs ++ [x]).eraseDups = if x ∈ xs then xs.eraseDups else xs.eraseDups ++ [x] := by
  rw [List.eraseDups_append, List.cons_removeAll]
  by_cases hx : x ∈ xs
  · rw [if_pos hx, if_neg (by simpa using hx), List.nil_removeAll, List.eraseDups_nil, List.append_nil]
  · rw [if_neg hx, if_pos (by simpa using hx), List.nil_removeAll]
    rfl

theorem nodup_eraseDups {α : Type} [DecidableEq α] (xs : List α) : xs.eraseDups.Nodup := by
  induction xs using List.reverseRecOn with
  | nil => simp
  | append_singleton xs x ih =>
    rw [eraseDups_concat]
    split_ifs with hx
    · exact ih
    · exact List.nodup_append.2 ⟨ih, List.nodup_singleton x, by
        rintro y hy z hz rfl
        exact hx (List.mem_singleton.1 hz ▸ List.mem_eraseDups.1 hy)⟩

theorem length_eraseDups_le_append {α : Type} [DecidableEq α] (xs ys : List α) :
    xs.eraseDups.length ≤ (xs ++ ys).eraseDups.length := by
  rw [List.eraseDups_append, List.length_append]
  exact Nat.le_add_right ..

/-- `BuildPalette` with the pixels `seen` scanned (R108): its palette is their distinct ones, and it goes on to those of
the whole image. -/
theorem buildPalette_seen {cap : Nat} (px : List Pixel) {seen : List Pixel} (hcap : seen.eraseDups.length ≤ cap) :
    buildPalette cap px seen.eraseDups =
      if (seen ++ px).eraseDups.length ≤ cap then .ok (seen ++ px).eraseDups else .error .paletteTooLarge := by
  induction px generalizing seen with
  | nil => rw [List.append_nil, if_pos hcap]; rfl
  | cons p px ih =>
    rw [buildPalette, List.append_cons seen p px]
    by_cases hp : p ∈ seen
    · have hsame : (seen ++ [p]).eraseDups = seen.eraseDups := by rw [eraseDups_concat, if_pos hp]
      rw [if_pos (List.mem_eraseDups.2 hp), ← hsame, ih (hsame ▸ hcap)]
    · have hnew : (seen ++ [p]).eraseDups = seen.eraseDups ++ [p] := by rw [eraseDups_concat, if_neg hp]
      have hlen : (seen ++ [p]).eraseDups.length = seen.eraseDups.length + 1 := by rw [hnew, List.length_append]; rfl
      rw [if_neg (mt List.mem_eraseDups.1 hp), ← hnew]
      by_cases hfull : cap ≤ seen.eraseDups.length
      · have hmore := length_eraseDups_le_append (seen ++ [p]) px
        rw [if_pos hfull, if_neg (by omega)]
      · rw [if_neg hfull, ih (by omega)]

/-- Settles O10: at the start of the scan no pixel is seen. -/
theorem paletteBuilder : Obligations.PaletteBuilder := fun cap px => buildPalette_seen px (seen := []) (Nat.zero_le cap)

/-! ### The index sequence -/

theorem buildPalette_ok {cap : Nat} {px pal : List Pixel} (h : buildPalette cap px [] = .ok pal) : pal = px.eraseDups := by
  rw [paletteBuilder cap px] at h
  split_ifs at h
  cases h
  rfl

/-- The index of a pixel already seen is not changed by the pixels that follow. -/
theorem indexIn_of_seen {seen : List Pixel} {p : Pixel} (hp : p ∈ seen) (px : List Pixel) :
    indexIn (seen ++ px).eraseDups p = indexIn seen.eraseDups p := by
  rw [indexIn, List.eraseDups_append, List.idxOf_append_of_mem (List.mem_eraseDups.2 hp)]
  rfl

/-- A new pixel gets the number of distinct pixels before it as its index. -/
theorem indexIn_of_new {seen : List Pixel} {p : Pixel} (hp : p ∉ seen) (px : List Pixel) :
    indexIn (seen ++ p :: px).eraseDups p = seen.eraseDups.length := by
  have hp' : p ∉ seen.eraseDups := mt List.mem_eraseDups.1 hp
  rw [List.append_cons, indexIn_of_seen (by simp), eraseDups_concat, if_neg hp, indexIn, List.idxOf_append_of_notMem hp']
  simp

/-- Every number below the count of distinct pixels is the index of one of them. -/
theorem exists_indexIn_eq {seen : List Pixel} {n : Nat} (hn : n < seen.eraseDups.length) :
    ∃ p ∈ seen, indexIn seen.eraseDups p = n :=
  ⟨_, List.mem_eraseDups.1 (List.getElem_mem hn), (nodup_eraseDups seen).idxOf_getElem n hn⟩

/-- A new pixel that is not the first follows a pixel whose index is one less (R111). -/
theorem exists_indexIn_succ {seen : List Pixel} {p : Pixel} (hp : p ∉ seen) (hs : seen ≠ []) (px : List Pixel) :
    ∃ q ∈ seen, indexIn (seen ++ p :: px).eraseDups p = indexIn (seen ++ p :: px).eraseDups q + 1 := by
  obtain ⟨x, hx⟩ := List.exists_mem_of_ne_nil seen hs
  have hpos : 0 < seen.eraseDups.length := List.length_pos_of_mem (List.mem_eraseDups.2 hx)
  obtain ⟨q, hq, hidx⟩ := exists_indexIn_eq (seen := seen) (n := seen.eraseDups.length - 1) (by omega)
  exact ⟨q, hq, by rw [indexIn_of_new hp, indexIn_of_seen hq, hidx]; omega⟩

/-- Settles O11: a strict maximum is the index of a pixel not seen before. -/
theorem indexSequence : Obligations.IndexSequence := by
  rintro cap px pal idx hb rfl
  obtain rfl := buildPalette_ok hb
  refine ⟨fun h => ?_, fun i hi h0 hmax => ?_⟩
  · cases px with
    | nil => simp at h
    | cons p px => exact indexIn_of_new (seen := []) (by simp) px
  simp only [List.length_map, List.getElem_map] at hi hmax ⊢
  have hsplit : px.take i ++ px[i] :: px.drop (i + 1) = px := by
    rw [← List.drop_eq_getElem_cons hi, List.take_append_drop]
  have hnew : px[i] ∉ px.take i := fun hmem => by
    obtain ⟨j, hj, hji⟩ := List.mem_take_iff_getElem.1 hmem
    exact absurd (hmax j (by omega)) (by rw [hji]; exact lt_irrefl _)
  have hs : px.take i ≠ [] := List.ne_nil_of_length_pos (by rw [List.length_take]; omega)
  obtain ⟨q, hq, hsucc⟩ := exists_indexIn_succ hnew hs (px.drop (i + 1))
  obtain ⟨j, hj, rfl⟩ := List.mem_take_iff_getElem.1 hq
  rw [hsplit] at hsucc
  exact ⟨j, by omega, hsucc⟩

end Sys2Proof.Machine
end

section
/-! Records that name no pixel: a sum outside the channels, an index outside the palette. -/

namespace Sys2Proof.Machine

/-! ### Delta blocks -/

theorem reconstruct_outside {prev : Pixel} {dr dg db : Int}
    (h : ¬ (isChannel (chan prev.r + dr) ∧ isChannel (chan prev.g + dg) ∧ isChannel (chan prev.b + db))) :
    reconstruct prev dr dg db = .error .channelOutOfRange := if_neg h

/-- Settles O31: the block has no pixel to store. -/
theorem channelRange : Obligations.ChannelRange := by
  intro s h i dr dg db hi hs hout
  rw [exec_deltaBlock hi hs, reconstruct_outside hout, putBlock, settle_err]

/-! ### Palette indices -/

theorem paletteLookup_outside {i : Nat} {s : State} (h : s.palSize.toNat ≤ i) :
    paletteLookup i s = .error (.err .formatError) := if_pos h

/-- The lookups stop at the first index outside the palette, if no entry before it is unwritten (R225). -/
theorem paletteLookups_outside {good : List Nat} {bad : Nat} {s : State}
    (hgood : ∀ j ∈ good, j < s.palSize.toNat ∧ s.pal.read j ≠ none) (hbad : s.palSize.toNat ≤ bad) (more : List Nat) :
    paletteLookups (good ++ bad :: more) s = .error (.err .formatError) := by
  induction good with
  | nil => rw [List.nil_append, paletteLookups, paletteLookup_outside hbad]
  | cons j good ih =>
    obtain ⟨⟨hj, hread⟩, hrest⟩ := List.forall_mem_cons.1 hgood
    obtain ⟨p, hp⟩ := Option.ne_none_iff_exists'.1 hread
    rw [List.cons_append, paletteLookups, paletteLookup_ok.2 ⟨hj, hp⟩, ih hrest]

/-- Settles O33: the lookup fails, and only the lanes taken are looked up. -/
theorem indexErrors : Obligations.IndexErrors := by
  refine ⟨?_, fun s h i kind d lanes good bad more hi hs htaken hgood hbad => ?_⟩
  · rintro s h i ⟨hj, hk, hp⟩ hi
    refine (inStream_of_job hj hk hp).trans ?_
    rw [paletteLookup_outside hi, settle_err]
  · rw [exec_pack hi hs, packRecord, htaken, paletteLookups_outside hgood hbad, settle_err]

end Sys2Proof.Machine
end

section
/-! One pixel of the palette scan and of the run-length encoder. -/

namespace Sys2Proof.Machine

/-! ### The palette scan -/

theorem PaletteIs.mem_iff {pal : List Pixel} {s : State} (h : PaletteIs pal s) (p : Pixel) :
    p ∈ pal ↔ ∃ j < s.palSize.toNat, s.pal.read j = some p := by
  rw [List.mem_iff_getElem?, h.size]
  constructor
  · rintro ⟨j, hj⟩
    obtain ⟨hlt, -⟩ := List.getElem?_eq_some_iff.1 hj
    exact ⟨j, hlt, (h.read hlt).trans hj⟩
  · rintro ⟨j, hlt, hj⟩
    exact ⟨j, (h.read hlt).symm.trans hj⟩

/-- Pixel `i` of the scan, with the palette given as a list (R108, R109). -/
theorem paletteStep_of_palette {kind : RecordKind} {i : Nat} {p : Pixel} {pal : List Pixel} {s : State}
    (hi : i < pixelCount s) (hread : s.pmem.read i = some p) (hpal : PaletteIs pal s) :
    paletteStep kind i s =
      if p ∈ pal then .ok (setJob (.encPalette kind (i + 1)) s)
      else if 2 ^ s.depth.toNat ≤ s.palSize.toNat then .error (.err .paletteTooLarge)
      else .ok (setJob (.encPalette kind (i + 1)) (setPalSize (s.palSize.toNat + 1) (writePal s.palSize.toNat p s))) := by
  have hscan : paletteScan s.pal p 0 s.palSize.toNat = .ok (if p ∈ pal then some (0 + pal.idxOf p) else none) := by
    rw [hpal.size]; exact paletteScan_list p hpal.entries
  rw [paletteStep, if_neg (not_le.2 hi)]
  simp only [readPixel_ok.2 hread, hscan]
  by_cases hp : p ∈ pal
  · simp only [if_pos hp]
  · simp only [if_neg hp]

/-- Settles O38: the scan answers whether the pixel is in the palette. -/
theorem paletteScanStep : Obligations.PaletteScanStep := by
  intro s kind i p hh hj hi hread hw
  obtain ⟨pal, hpal⟩ := exists_paletteIs rfl hw
  have hstep : step s = settle s (paletteStep kind i s) := by rw [step_of_no_host hh, engineStep, hj]
  rw [hstep, paletteStep_of_palette hi hread hpal]
  refine ⟨fun hknown => ?_, fun hnew => ?_⟩
  · rw [if_pos ((hpal.mem_iff p).2 hknown), settle_ok]
  · have hout : p ∉ pal := fun hp => by
      obtain ⟨j, hlt, hentry⟩ := (hpal.mem_iff p).1 hp
      exact hnew j hlt hentry
    rw [if_neg hout]
    split_ifs <;> rfl

/-! ### The run-length encoder -/

theorem paletteIndex_of_reached {p : Pixel} {j : Nat} {s : State} (hreach : ScanReaches j p s)
    (hread : s.pal.read j = some p) : paletteIndex p s = .ok j := by
  obtain ⟨hj, hbefore⟩ := hreach
  have hscan : paletteScan s.pal p 0 s.palSize.toNat = .ok (some (0 + j)) :=
    (paletteScan_stop hj (by simpa using hbefore)).2 (by simpa using hread)
  rw [paletteIndex, hscan, Nat.zero_add]

/-- One pixel goes through the stream encoder, and `PIX` moves past it (R185 to R191). -/
theorem step_encStream {kind : RecordKind} {p : Pixel} {s : State} (hh : s.host = []) (hj : s.job = .encStream kind)
    (hpix : s.work.pix < pixelCount s) (hread : s.pmem.read s.work.pix = some p) :
    step s = settle s ((encodePixel kind p s).map nextPixel) := by
  rw [step_of_no_host hh, engineStep, hj]
  simp only [encodeStep, if_pos hpix, readPixel_ok.2 hread]
  cases encodePixel kind p s <;> rfl

/-- The run grows, a first run opens, or the open run is written, if it fits, and the next one opens (R160). -/
theorem settle_runStep (kind : RecordKind) (same : Bool) (sym : Pixel) (s : State) :
    settle s ((runStep kind same sym s).map nextPixel) = .next (
      if runGoesOn same s.work then nextPixel (setRun s.work.runVal (s.work.runCnt + 1) s)
      else if s.work.runCnt = 0 then nextPixel (setRun sym 1 s)
      else if fits (s.work.wp + (runBytes kind s.work.runCnt s.work.runVal).length) s.caps.obuf then
        nextPixel (setRun sym 1 (emitBytes (runBytes kind s.work.runCnt s.work.runVal) s))
      else raise .bufferOverflow s) := by
  unfold runStep flushRun emit
  split_ifs <;> rfl

/-- Settles O39: the symbol is the pixel, or its index in channel `b` of a symbol (log 7). -/
theorem runEncoderStep : Obligations.RunEncoderStep := by
  rintro s kind p v record hh hj hpix hread hkind
  rw [step_encStream hh hj hpix hread]
  rcases hkind with ⟨rfl, rfl, rfl⟩ | ⟨rfl, rfl, j, hreach, hentry, rfl⟩
  · have hsame : runGoesOn (decide (v = s.work.runVal)) s.work ↔ s.work.runCnt ≠ 0 ∧
        (v = s.work.runVal ∨ RecordKind.run = .runi ∧ v.b = s.work.runVal.b) ∧ s.work.runCnt.toNat < 255 := by
      simp [runGoesOn]
    simp only [← hsame]
    exact settle_runStep .run _ v s
  · have hsame : runGoesOn (decide (byteOf j = s.work.runVal.b)) s.work ↔ s.work.runCnt ≠ 0 ∧
        (indexSymbol (byteOf j) = s.work.runVal ∨ RecordKind.runi = .runi ∧ byteOf j = s.work.runVal.b) ∧
          s.work.runCnt.toNat < 255 := by
      have hval : indexSymbol (byteOf j) = s.work.runVal → byteOf j = s.work.runVal.b := congrArg Pixel.b
      simp only [runGoesOn, decide_eq_true_eq, true_and, or_iff_right_of_imp hval]
    have henc : encodePixel .runi p s =
        runStep .runi (decide (byteOf j = s.work.runVal.b)) (indexSymbol (byteOf j)) s := by
      simp only [encodePixel, paletteIndex_of_reached hreach hentry]
    rw [henc, settle_runStep]
    simp only [hsame]
    rfl

end Sys2Proof.Machine
end

section
/-! One index of the Bit Packer: the rule's shift and or are the model's place value and sum. -/

namespace Sys2Proof.Machine

/-! ### A lane of `ACC` -/

/-- Counted from the top of the byte or from its end, a lane stands at the same bit (R120). -/
theorem lane_shift_eq {d : Nat} (hd : d ∣ 8) (n : Nat) : d * (8 / d - 1 - n) = 8 - d * (n + 1) := by
  rw [Nat.sub_sub, Nat.mul_sub, Nat.mul_div_cancel' hd, Nat.add_comm]

/-- Above free bits an or is a sum: `a` has none of its bits below `k + d`, and `i` shifted by `k` has none from there on. -/
theorem or_shiftLeft_eq_add {a i k d : Nat} (hfree : a % 2 ^ (k + d) = 0) (hi : i < 2 ^ d) :
    a ||| i <<< k = a + i * 2 ^ k := by
  obtain ⟨q, rfl⟩ := Nat.dvd_of_mod_eq_zero hfree
  have hlt : i <<< k < 2 ^ (k + d) := by
    rw [Nat.shiftLeft_eq, Nat.add_comm, Nat.pow_add]
    exact Nat.mul_lt_mul_of_pos_right hi (Nat.two_pow_pos k)
  calc 2 ^ (k + d) * q ||| i <<< k
      = q <<< (k + d) ||| i <<< k := by rw [Nat.shiftLeft_eq q, Nat.mul_comm]
    _ = 2 ^ (k + d) * q + i * 2 ^ k := by rw [shiftLeft_or_of_lt hlt, Nat.mul_comm, Nat.shiftLeft_eq]

/-- The same for a byte (R122). -/
theorem byte_or_shiftLeft_eq_byteOf {a : Byte} {i k d : Nat} (hfree : a.toNat % 2 ^ (k + d) = 0) (hi : i < 2 ^ d) :
    a ||| BitVec.ofNat 8 i <<< k = byteOf (a.toNat + i * 2 ^ k) := by
  have hshift : BitVec.ofNat 8 i <<< k = byteOf (i <<< k) := BitVec.eq_of_toNat_eq (by simp [byteOf, Nat.shiftLeft_eq])
  calc a ||| BitVec.ofNat 8 i <<< k
      = byteOf a.toNat ||| byteOf (i <<< k) := by rw [hshift, byteOf_toNat_self]
    _ = byteOf (a.toNat ||| i <<< k) := (BitVec.ofNat_or ..).symm
    _ = byteOf (a.toNat + i * 2 ^ k) := by rw [or_shiftLeft_eq_add hfree hi]

/-- Settles O40: `ACC` is free from lane `ACC_N` down, so the rule's or is the sum that `packStep` makes. -/
theorem packEncoderStep : Obligations.PackEncoderStep := by
  rintro s d i acc hd hi hn hfree rfl
  have hdvd : d ∣ 8 := by rcases hd with rfl | rfl | rfl <;> decide
  have hle : d * (s.work.accN.toNat + 1) ≤ 8 := (Nat.mul_le_mul_left d hn).trans (Nat.mul_div_le 8 d)
  have hbits : 8 - d * s.work.accN.toNat = 8 - d * (s.work.accN.toNat + 1) + d := by
    rw [Nat.mul_succ] at hle ⊢; omega
  have hcount : BitVec.ofNat 4 (s.work.accN.toNat + 1) = s.work.accN + 1 := by
    simp [BitVec.ofNat_add]
  rw [lane_shift_eq hdvd, byte_or_shiftLeft_eq_byteOf (hbits ▸ hfree) hi, hcount]
  unfold packStep emit
  rfl

end Sys2Proof.Machine
end

section
/-! The block chosen for a pixel: which one it is, that it decodes to that pixel, and the reserved first bytes. -/

namespace Sys2Proof.Machine

/-! ### The choice of a block -/

/-- The block of a pixel is picked by the bounds on its deltas, in the order of R130. -/
theorem blockFor_eq {prev cur : Pixel} {dr dg db : Int} (hr : dr = chan cur.r - chan prev.r)
    (hg : dg = chan cur.g - chan prev.g) (hb : db = chan cur.b - chan prev.b) :
    blockFor prev cur =
      if within dr (-2) 1 ∧ within dg (-2) 1 ∧ within db (-2) 1 then .small dr dg db
      else if within dg (-32) 31 ∧ within (dr - dg) (-8) 7 ∧ within (db - dg) (-8) 7 then .inter dr dg db
      else if within dr (-128) 127 ∧ within (dg - dr) (-32) 31 ∧ within (db - dr) (-32) 31 then .bigr dr dg db
      else if within dg (-128) 127 ∧ within (dr - dg) (-32) 31 ∧ within (db - dg) (-32) 31 then .bigg dr dg db
      else if within db (-128) 127 ∧ within (dr - db) (-32) 31 ∧ within (dg - db) (-32) 31 then .bigb dr dg db
      else .new cur.r cur.g cur.b := by
  subst hr hg hb
  simp only [blockFor, classify]
  split_ifs <;> rfl

/-- The deltas of an unchanged pixel are 0, which is `SMALL` (R132 a). -/
theorem blockFor_self (p : Pixel) : blockFor p p = .small 0 0 0 := by
  rw [blockFor_eq (Int.sub_self _).symm (Int.sub_self _).symm (Int.sub_self _).symm]
  exact if_pos (by decide)

/-- Settles O60: the classifier's bounds, and the step of a pixel whose output is its block. -/
theorem blockChoice : Obligations.BlockChoice := by
  refine ⟨fun prev cur dr dg db hr hg hb => blockFor_eq hr hg hb, blockFor_self, ?_⟩
  rintro s p block hh hj hpix hread rfl
  have henc : encodePixel .delta p s =
      if fits (s.work.wp + (encode (blockFor s.work.prev p)).length) s.caps.obuf then
        .ok (setPrev p (emitBytes (encode (blockFor s.work.prev p)) s))
      else .error (.err .bufferOverflow) := emit_bind _ s (setPrev p)
  rw [step_encStream hh hj hpix hread, henc]
  split_ifs <;> rfl

/-! ### The chosen block decodes to its pixel -/

/-- `i` is a version 4 block that stands for `cur` after `prev`. -/
structure BlockOf (prev cur : Pixel) (i : Instr) : Prop where
  wellFormed : WellFormed i
  ctx : ctxOf i = .stream .delta
  pixel : blockPixel prev i = .ok cur

/-- Each test of the classifier is the well-formedness of the block it picks, so the deltas have their fields (R132). -/
theorem blockOf_blockFor (prev cur : Pixel) : BlockOf prev cur (blockFor prev cur) := by
  have hsum : ∀ a b : Int, a = b + (a - b) := fun a b => (add_sub_cancel b a).symm
  have hcur := reconstruct_ok (hsum (chan cur.r) (chan prev.r)) (hsum (chan cur.g) (chan prev.g))
    (hsum (chan cur.b) (chan prev.b))
  rw [blockFor_eq rfl rfl rfl]
  split_ifs with hsmall hinter hbigr hbigg hbigb
  · exact ⟨decide_eq_true hsmall, rfl, hcur⟩
  · exact ⟨decide_eq_true hinter, rfl, hcur⟩
  · exact ⟨decide_eq_true hbigr, rfl, hcur⟩
  · exact ⟨decide_eq_true hbigg, rfl, hcur⟩
  · exact ⟨decide_eq_true hbigb, rfl, hcur⟩
  · exact ⟨rfl, rfl, rfl⟩

theorem BlockOf.decodeDelta_encode {prev cur : Pixel} {i : Instr} (h : BlockOf prev cur i) (rest : List Byte) :
    decodeDelta (encode i ++ rest) = .ok (i, rest) := by
  have hdec := decodeEncode i rest h.wellFormed
  rwa [h.ctx, decode_stream, decodeRecord_delta] at hdec

/-- Block by block, each decoded pixel is the previous pixel of the next block on both sides (R139, R148). -/
theorem deltaDec_deltaEnc (prev : Pixel) (px : List Pixel) : deltaDec prev px.length (deltaEnc prev px) = .ok px := by
  induction px generalizing prev with
  | nil => rfl
  | cons p px ih =>
    have hblock := blockOf_blockFor prev p
    simp only [deltaEnc, List.length_cons, deltaDec, hblock.decodeDelta_encode, hblock.pixel, ih p]

/-- Settles O7: the first part is the case of no bytes following. -/
theorem blockInverse : Obligations.BlockInverse := by
  refine ⟨fun prev cur => ?_, deltaDec_deltaEnc Pixel.black⟩
  have hblock := blockOf_blockFor prev cur
  have hdec := hblock.decodeDelta_encode []
  rw [List.append_nil] at hdec
  exact ⟨hdec, hblock.pixel⟩

/-! ### A reserved first byte -/

/-- A record of one byte is fetched from the byte at `RP` alone (R47, R148). -/
theorem fetchRecord_one_byte {c : Ctx} {s : State} {b : Byte} (hneed : needBytes c = 1) (hlen : recordLen c [b] = 1)
    (hrp : s.work.rp < s.inLen.toNat) (hread : s.ibuf.read s.work.rp = some b) : fetchRecord c s = .bytes [b] := by
  have hbyte : s.ibuf.readRange s.work.rp 1 = some [b] :=
    (Memory.readRange_succ _ _ 0 b []).2 ⟨hread, Memory.readRange_zero _ _⟩
  have hend : ¬ s.inLen.toNat < s.work.rp + 1 := by omega
  simp only [fetchRecord, hneed, hbyte, hlen, if_neg hend]

/-- The one byte is the whole record, whatever follows it (R148). -/
theorem runRecordAt_reserved {s : State} {b0 : Byte} (hw : WellFormed (.reservedV4 b0))
    (hrp : s.work.rp < s.inLen.toNat) (hread : s.ibuf.read s.work.rp = some b0) :
    runRecordAt (.stream .delta) s = exec (.reservedV4 b0) s := by
  have hfetch : fetchRecord (.stream .delta) s = .bytes [b0] :=
    fetchRecord_one_byte rfl (Laws.EncodeLength.reservedV4 b0 hw) hrp hread
  have hdec : decode (.stream .delta) [b0] = .ok (.reservedV4 b0, []) := decodeEncode (.reservedV4 b0) [] hw
  simp only [runRecordAt, hfetch, hdec]

/-- In a stream that still needs pixels the step is a record's. -/
theorem step_decStream {kind : RecordKind} {h : Hdr} {s : State} (hh : s.host = []) (hs : InStream kind h s) :
    step s = runRecordAt (.stream kind) s := by
  obtain ⟨hj, rfl, hp⟩ := hs
  rw [step_of_no_host hh, engineStep, hj]
  exact if_pos hp

/-- Settles O25: the step on the byte is the instruction, which has no pixel. -/
theorem reservedResult : Obligations.ReservedResult := by
  intro s h b0 hs hlo hhi
  have hexec : exec (.reservedV4 b0) s = .next (raise .formatError s) := by
    obtain ⟨hj, hk, hp⟩ := hs
    exact inStream_of_job hj hk hp
  refine ⟨hexec, fun hh hrp hread => ?_⟩
  rw [step_decStream hh hs, runRecordAt_reserved (decide_eq_true ⟨hlo, hhi⟩) hrp hread, hexec]

end Sys2Proof.Machine
end

section
/-! Run records: decoding undoes encoding, and the tests that a record can fail. -/

namespace Sys2Proof.Machine

/-! ### The round trip -/

theorem lt_length_of_lookupIn {pal : List Pixel} {i : Nat} {p : Pixel} (h : lookupIn pal i = .ok p) : i < pal.length := by
  by_contra hi
  rw [lookupIn, List.getElem?_eq_none (not_lt.1 hi)] at h
  cases h

/-- Indices that can all be looked up are in the palette (R112). -/
theorem lt_length_of_lookupAll {pal px : List Pixel} {idx : List Nat} (h : lookupAll pal idx = .ok px) :
    ∀ i ∈ idx, i < pal.length := by
  induction idx generalizing px with
  | nil => exact List.forall_mem_nil _
  | cons i is ih =>
    rw [lookupAll] at h
    cases hi : lookupIn pal i with
    | error e => rw [hi] at h; cases h
    | ok p =>
      rw [hi] at h
      cases his : lookupAll pal is with
      | error e => rw [his] at h; cases h
      | ok ps => exact List.forall_mem_cons.2 ⟨lt_length_of_lookupIn hi, ih his⟩

/-- Settles O9: a pixel is the value of its own three bytes, and an index that can be looked up is the value of its byte. -/
theorem runRoundTrip : Obligations.RunRoundTrip := by
  refine ⟨fun px => ?_, fun pal sym px hpal hlook => ?_⟩
  · have hdec := rleDec_rleEnc (len := 4) (value := runValue) (bytes := pixelBytes) (pix := id) (ss := px)
      fun p _ => ⟨rfl, rfl⟩
    rwa [List.map_id] at hdec
  · rw [runiDec_rleEnc hpal (lt_length_of_lookupAll hlook), hlook]

/-! ### The tests of a record -/

section
variable {n : Byte} {value : Except Stop Pixel} {len : Nat} {h : Hdr} {s : State}

theorem runRecord_zero : runRecord 0 value len h s = .error (.err .formatError) := if_pos rfl

theorem runRecord_bad_value {e : Stop} (hn : n ≠ 0) : runRecord n (.error e) len h s = .error e := if_neg hn

theorem runRecord_too_long {p : Pixel} (hn : n ≠ 0) (hlong : h.pixels < s.work.pix + n.toNat) :
    runRecord n (.ok p) len h s = .error (.err .pixelCountMismatch) := by
  unfold runRecord
  rw [if_neg hn]
  exact if_pos hlong

end

/-- Settles O32, test by test: a later one is reached where the earlier ones pass. -/
theorem runErrors : Obligations.RunErrors := by
  refine fun s h n r g b i => ⟨?_, ?_⟩
  · rintro ⟨hj, hk, hp⟩
    refine ⟨(inStream_of_job hj hk hp).trans ?_, fun hn hlong => (inStream_of_job hj hk hp).trans ?_⟩
    · rw [runRecord_zero, settle_err]
    · rw [runRecord_too_long hn hlong, settle_err]
  · rintro ⟨hj, hk, hp⟩
    refine ⟨(inStream_of_job hj hk hp).trans ?_, fun hn hi => (inStream_of_job hj hk hp).trans ?_,
      fun hn hi hread hlong => (inStream_of_job hj hk hp).trans ?_⟩
    · rw [runRecord_zero, settle_err]
    · rw [paletteLookup_outside hi, runRecord_bad_value hn, settle_err]
    · obtain ⟨p, hentry⟩ := Option.ne_none_iff_exists'.1 hread
      rw [paletteLookup_ok.2 ⟨hi, hentry⟩, runRecord_too_long hn hlong, settle_err]

end Sys2Proof.Machine
end

section
/-! The round trip of a whole file: what the encoder writes, in every configuration, decodes to the image. -/

namespace Sys2Proof.Machine

/-! ### Streams without a palette -/

theorem rawDec_flatMap_pixelBytes (px : List Pixel) : rawDec px.length (px.flatMap pixelBytes) = .ok px := by
  induction px with
  | nil => rfl
  | cons p px ih =>
    rw [List.flatMap_cons, List.length_cons]
    simp only [pixelBytes, List.cons_append, List.nil_append, rawDec, ih]

/-- The stream formats whose records hold pixels or deltas need no palette to be read back (R185, R187, R191). -/
theorem streamDec_streamEnc_direct {kind : RecordKind} (hk : indexed kind ≠ true) (pal px : List Pixel) :
    streamDec kind pal px.length (streamEnc kind pal px) = .ok px := by
  cases kind
  case pix => exact rawDec_flatMap_pixelBytes px
  case run => exact runRoundTrip.1 px
  case delta => exact blockInverse.2 px
  all_goals exact absurd rfl hk

/-! ### Files without a palette -/

/-- `ParseHeader` reads a header of version 1, 2 or 4 back (R182, R217). -/
theorem parseHeader_plain {v : Byte} {kind : RecordKind} (w h : Half) (hv : v = 1 ∨ v = 2 ∨ v = 4)
    (hk : streamKind v 0 0 = some kind) (stream : List Byte) :
    parseHeader (encode (.hdr12 v w h) ++ stream) = .ok (plainHdr v w h kind, []) := by
  unfold parseHeader
  rw [decodeHeader_encode_hdr12 hv]
  dsimp only
  rw [hk]
  rfl

/-- A header of version 1, 2 or 4 is 12 bytes, and the stream of its version follows. -/
theorem decodeFile_plain {v d : Byte} {r : BitVec 1} {kind : RecordKind} {w h : Half} {px : List Pixel}
    (hv : v = 1 ∨ v = 2 ∨ v = 4) (hs : Selects v d r kind) (hk : indexed kind ≠ true)
    (hpx : px.length = w.toNat * h.toNat) : decodeFile (fileWith ⟨v, d, r⟩ kind w h [] px) = .ok ⟨w, h, px⟩ := by
  have hkind : streamKind v 0 0 = some kind := by
    rw [← selects_streamKind hs]
    rcases hv with rfl | rfl | rfl <;> rfl
  have hfile : fileWith ⟨v, d, r⟩ kind w h [] px = encode (.hdr12 v w h) ++ streamEnc kind [] px := by
    rw [fileWith, headerBytes, if_neg (by rintro rfl; simp at hv)]
  rw [hfile]
  refine decodeFile_of_stream (parseHeader_plain w h hv hkind _) ?_ hpx
  rw [show (plainHdr v w h kind).headerLen.toNat = 12 from rfl, List.drop_left' (encode_hdr12_length v w h)]
  exact streamDec_streamEnc_direct hk [] px

/-- At depth 24 the header of version 3 is 14 bytes and has no palette (R183, R215). -/
theorem decodeFile_depth24 {r : BitVec 1} {kind : RecordKind} {w h : Half} {px : List Pixel} (hs : Selects 3 24 r kind)
    (hk : indexed kind ≠ true) (hpx : px.length = w.toNat * h.toNat) :
    decodeFile (fileWith ⟨3, 24, r⟩ kind w h [] px) = .ok ⟨w, h, px⟩ := by
  have hlegal : legalHdr3 14 24 (effectiveRle 24 r) := by
    rcases bit_cases r with rfl | rfl <;> decide
  have hfile : fileWith ⟨3, 24, r⟩ kind w h [] px =
      encode (.hdr3 14 w h 24 (effectiveRle 24 r)) ++ ([].flatMap pixelBytes ++ streamEnc kind [] px) :=
    List.append_assoc _ _ _
  rw [hfile]
  refine decodeFile_of_stream (parseHeader_version3 w h hlegal (selects_streamKind hs) rfl _) ?_ hpx
  rw [show (version3Hdr 14 w h 24 (effectiveRle 24 r) kind).headerLen.toNat = 14 + 3 * ([] : List Pixel).length from rfl,
    drop_version3_header]
  exact streamDec_streamEnc_direct hk [] px

/-- The two header formats without a palette (R50). -/
theorem decodeFile_without_palette {c : EncConfig} {kind : RecordKind} {w h : Half} {px : List Pixel}
    (hlegal : legalConfig c.version c.depth) (hno : ¬ usesPalette c.version c.depth)
    (hs : Selects c.version c.depth c.rle kind) (hpx : px.length = w.toNat * h.toNat) :
    decodeFile (fileWith c kind w h [] px) = .ok ⟨w, h, px⟩ := by
  obtain ⟨v, d, r⟩ := c
  dsimp only at hlegal hno hs
  have hk : indexed kind ≠ true := fun hk => hno (usesPalette_of_indexed (selects_streamKind hs) hk)
  by_cases hv : v = 3
  · subst hv
    obtain rfl : d = 24 := by_contra fun h24 => hno ⟨rfl, h24⟩
    exact decodeFile_depth24 hs hk hpx
  · have hplain : v = 1 ∨ v = 2 ∨ v = 4 := by
      obtain ⟨hversion, -⟩ := hlegal
      tauto
    exact decodeFile_plain hplain hs hk hpx

/-! ### The encoder's file -/

/-- Without capacities, `ENCODE` of a legal configuration is the file with the palette it builds (R195). -/
theorem encodeImage_of_palette {c : EncConfig} {kind : RecordKind} {img : Image} {pal : List Pixel}
    (hlegal : legalConfig c.version c.depth) (hs : Selects c.version c.depth c.rle kind)
    (hpal : paletteFor c img.pixels = .ok pal) :
    encodeImage c img = .ok (fileWith c kind img.width img.height pal img.pixels) := by
  rw [encodeImage, encodeWithin_selected hlegal rfl (selects_streamKind hs), hpal]
  rfl

theorem paletteFor_of_fits {c : EncConfig} {px : List Pixel} (huse : usesPalette c.version c.depth)
    (hcap : px.eraseDups.length ≤ 2 ^ c.depth.toNat) : paletteFor c px = .ok px.eraseDups := by
  rw [paletteFor, if_pos huse, paletteBuilder, if_pos hcap]

/-- Settles O12: with a palette, its order is one of those of O13 and it holds every pixel; without one, the records give
the pixels themselves. -/
theorem roundTrip : Obligations.RoundTrip := by
  intro c img hpx hlegal hcap
  obtain ⟨kind, hs⟩ := selects_of_legal c.rle hlegal
  by_cases huse : usesPalette c.version c.depth
  · have hfits : img.pixels.eraseDups.length ≤ 2 ^ c.depth.toNat := hcap huse
    exact ⟨_, encodeImage_of_palette hlegal hs (paletteFor_of_fits huse hfits),
      anyPaletteOrder c kind img.width img.height _ img.pixels huse hlegal hs hfits
        (fun _ hp => List.mem_eraseDups.2 hp) hpx⟩
  · exact ⟨_, encodeImage_of_palette hlegal hs (if_neg huse), decodeFile_without_palette hlegal huse hs hpx⟩

end Sys2Proof.Machine
end

section
/-! The end of the pixel stream of `DEC`. -/

namespace Sys2Proof.Machine

section
variable {h : Hdr} {s : State}

/-- Once no pixel is needed, the step is the end of the stream. -/
theorem step_after_last_pixel (hh : s.host = []) (hj : s.job = .decStream h) (hp : h.pixels ≤ s.work.pix) :
    step s = settle s (endStream h s) := by
  rw [step_of_no_host hh, engineStep, hj]
  exact if_neg (not_lt.2 hp)

theorem endStream_of_used_up (hrp : s.work.rp = s.inLen.toNat) : endStream h s = .ok (finishDec h s) := if_pos hrp

theorem endStream_of_left_over (hrp : s.work.rp ≠ s.inLen.toNat) : endStream h s = .error (.err .pixelCountMismatch) :=
  if_neg hrp

/-- `RLE` takes the lowest bit of the header's flag byte. -/
theorem finishDec_rle_toNat (h : Hdr) (s : State) : (finishDec h s).rle.toNat = h.rle.toNat % 2 := by
  rw [finishDec_rle, BitVec.extractLsb'_toNat, Nat.shiftRight_zero, pow_one]

/-- `PAL_SIZE` has nine bits. -/
theorem finishDec_palSize_toNat (h : Hdr) (s : State) : (finishDec h s).palSize.toNat = h.k % 512 := by
  rw [finishDec_palSize, BitVec.toNat_ofNat]

/-- The image is below the cells that the end of `DEC` leaves unspecified (U5). -/
theorem finishDec_keeps_image {i : Nat} (hi : i < h.pixels) : (finishDec h s).pmem.read i = s.pmem.read i := by
  rw [finishDec_pmem, Memory.read_loosen_lt _ _ hi]

/-- The palette is below the cells that the end of `DEC` leaves unspecified (U5). -/
theorem finishDec_keeps_palette {i : Nat} (hi : i < h.k) : (finishDec h s).pal.read i = s.pal.read i := by
  rw [finishDec_pal, Memory.read_loosen_lt _ _ hi]

end

/-- Settles O36: with the file used up the step is `finishDec`, and with bytes left it is the mismatch. -/
theorem streamEnd : Obligations.StreamEnd := by
  refine fun s h hh hj hp => ⟨fun hrp => ?_, fun hrp => ⟨finishDec h s, ?_, rfl, rfl, rfl, rfl, rfl, rfl, rfl,
    finishDec_rle_toNat h s, finishDec_palSize_toNat h s, rfl, rfl, fun _ => rfl, fun _ => rfl,
    fun _ => finishDec_keeps_image, fun _ => finishDec_keeps_palette⟩⟩
  · rw [step_after_last_pixel hh hj hp, endStream_of_left_over hrp, settle_err]
  · rw [step_after_last_pixel hh hj hp, endStream_of_used_up hrp, settle_ok]

end Sys2Proof.Machine
end

section
/-! The `rst` input of the host's port. -/

namespace Sys2Proof.Machine

/-- `rst` is allowed in every state, `BUSY` included (R280, R285). -/
theorem hostAccess_rst (s : State) : hostAccess .rst s = .next (answer .ack (resetEngine s)) :=
  hostAccess_of_allowed rfl

/-- Settles O48: `rst` is allowed in every state, and `resetEngine` keeps only the fields that the engine does not have
(log 25). -/
theorem rstResult : Obligations.RstResult := by
  intro s ops hh
  calc step s
    _ = hostAccess .rst (setHost ops s) := step_of_access hh (by simp) (by simp)
    _ = .next (answer .ack (resetEngine (setHost ops s))) := hostAccess_rst _
    _ = .next { State.reset with caps := s.caps, host := ops, resp := .ack, draw := s.draw } := rfl

end Sys2Proof.Machine
end

section
/-! Everything one step of the engine can do to a state, in any state: the frame of each command and the canonical form
of the memories follow from it, and so does the descent that makes a command end. -/

namespace Sys2Proof.Machine

/-! ### What a completed record of `DEC` does -/

/-- A result that, where it completes, has stored at least one pixel as every record does (R22). -/
def StoresRecord (s : State) (r : Except Stop State) : Prop :=
  ∀ t, r = .ok t → ∃ ps len prev acc accN, 0 < ps.length ∧ t = storeRecord ps len prev acc accN s

section
variable {s t : State} {h : Hdr}

theorem StoresRecord.of_error (e : Stop) : StoresRecord s (.error e) := fun _ ht => nomatch ht

theorem StoresRecord.of_putPixels {ps : List Pixel} (hps : 0 < ps.length) (len : Nat) :
    StoresRecord s (.ok (putPixels ps len s)) := by
  rintro _ ⟨⟩
  exact ⟨ps, len, s.work.prev, s.work.acc, s.work.accN, hps, rfl⟩

theorem runRecord_stores (n : Byte) (value : Except Stop Pixel) (len : Nat) :
    StoresRecord s (runRecord n value len h s) := by
  unfold runRecord
  by_cases hn : n = 0
  · rw [if_pos hn]; exact .of_error _
  rw [if_neg hn]
  split
  · exact .of_error _
  split
  · exact .of_error _
  · have hpos := toNat_eq_zero.not.2 hn
    exact .of_putPixels (by rw [List.length_replicate]; omega) len

theorem packRecord_stores (d : Nat) {lanes : List Nat} (hl : 0 < lanes.length) (hp : s.work.pix < h.pixels) :
    StoresRecord s (packRecord d lanes h s) := by
  intro t ht
  cases hps : paletteLookups (lanes.take (h.pixels - s.work.pix)) s with
  | error e => simp only [packRecord, hps] at ht; cases ht
  | ok ps =>
    rw [packRecord_ok hps] at ht
    cases ht
    refine ⟨ps, _, _, _, _, ?_, rfl⟩
    rw [paletteLookups_length hps, List.length_take]
    omega

theorem putBlock_stores (cur : Except ErrKind Pixel) (len : Nat) : StoresRecord s (putBlock cur len s) := by
  cases cur with
  | error e => exact .of_error _
  | ok p =>
    rintro _ ⟨⟩
    exact ⟨[p], len, p, s.work.acc, s.work.accN, Nat.one_pos, rfl⟩

/-- A record of the pixel stream stores what it completes with, or raises an error. -/
theorem inStream_stores {mn : String} {kind : RecordKind} {body : Hdr → Except Stop State}
    (hbody : ∀ hd : Hdr, s.work.pix < hd.pixels → StoresRecord s (body hd)) (ht : inStream mn kind s body = .next t) :
    (∃ e, t = raise e s) ∨ ∃ ps len prev acc accN, 0 < ps.length ∧ t = storeRecord ps len prev acc accN s := by
  obtain ⟨hd, -, -, ⟨-, rfl⟩ | ⟨hp, hrun⟩⟩ := inStream_next ht
  · exact .inl ⟨_, rfl⟩
  · obtain hok | ⟨e, -, rfl⟩ := settle_next hrun
    · exact .inr (hbody hd hp t hok)
    · exact .inl ⟨e, rfl⟩

theorem exec_stores {i : Instr} {kind : RecordKind} (hi : ctxOf i = .stream kind) (ht : exec i s = .next t) :
    (∃ e, t = raise e s) ∨ ∃ ps len prev acc accN, 0 < ps.length ∧ t = storeRecord ps len prev acc accN s := by
  cases i
  case hdr12 | hdr3 | pal | nop | enc | dec | clr => cases hi
  case pix r g b =>
    exact inStream_stores (body := fun _ => .ok (putPixels [⟨r, g, b⟩] 3 s)) (fun _ _ => .of_putPixels (by simp) 3) ht
  case idx x =>
    refine inStream_stores (fun _ _ => ?_) ht
    split
    · exact .of_error _
    · exact .of_putPixels (by simp) 1
  case run | runi => exact inStream_stores (fun _ _ => runRecord_stores _ _ _) ht
  case pack1 | pack2 | pack4 => exact inStream_stores (fun _ hp => packRecord_stores _ (by simp) hp) ht
  case reservedV4 => exact inStream_stores (fun _ _ => .of_error _) ht
  all_goals exact inStream_stores (fun _ _ => putBlock_stores _ _) ht

/-! ### What a completed step of the stream encoder does -/

/-- A result that, where it completes, has written bytes at `WP` and changed working registers (R7, R196). -/
def MovesEncoder (s : State) (r : Except Stop State) : Prop := ∀ t, r = .ok t → ∃ bs w, t = encoderMove bs w s

theorem MovesEncoder.of_error (e : Stop) : MovesEncoder s (.error e) := fun _ ht => nomatch ht

theorem MovesEncoder.of_ok (bs : List Byte) (w : Work) : MovesEncoder s (.ok (encoderMove bs w s)) := by
  rintro _ ⟨⟩
  exact ⟨bs, w, rfl⟩

theorem emit_moves (bs : List Byte) : MovesEncoder s (emit bs s) := by
  intro t ht
  obtain ⟨-, rfl⟩ := emit_ok ht
  exact ⟨bs, s.work, rfl⟩

/-- `ACC` and `ACC_N` are cleared where the packed byte is emitted (R122). -/
theorem emit_setAcc_moves (bs : List Byte) (a : Byte) (n : BitVec 4) : MovesEncoder s (emit bs (setAcc a n s)) := by
  intro t ht
  obtain ⟨-, rfl⟩ := emit_ok ht
  exact ⟨bs, { s.work with acc := a, accN := n }, rfl⟩

theorem flushRun_moves (kind : RecordKind) : MovesEncoder s (flushRun kind s) := by
  unfold flushRun
  split_ifs
  · exact .of_ok [] s.work
  · exact emit_moves _

theorem runStep_moves (kind : RecordKind) (same : Bool) (sym : Pixel) : MovesEncoder s (runStep kind same sym s) := by
  unfold runStep
  split
  · exact .of_ok [] { s.work with runCnt := s.work.runCnt + 1 }
  split
  · exact .of_error _
  · obtain ⟨bs, w, rfl⟩ := flushRun_moves kind _ ‹_›
    exact .of_ok bs { w with runVal := sym, runCnt := 1 }

theorem packStep_moves (d i : Nat) : MovesEncoder s (packStep d i s) := by
  unfold packStep
  dsimp only
  split_ifs
  · exact emit_setAcc_moves _ 0 0
  · exact .of_ok [] { s.work with acc := _, accN := s.work.accN + 1 }

theorem packFlush_moves : MovesEncoder s (packFlush s) := by
  unfold packFlush
  split_ifs
  · exact .of_ok [] s.work
  · exact emit_setAcc_moves _ 0 0

theorem encodePixel_moves (kind : RecordKind) (p : Pixel) : MovesEncoder s (encodePixel kind p s) := by
  cases kind
  case pix => exact emit_moves _
  case run => exact runStep_moves _ _ _
  case delta =>
    simp only [encodePixel]
    split
    · exact .of_error _
    · obtain ⟨-, rfl⟩ := emit_ok ‹_›
      exact .of_ok _ { s.work with prev := p }
  all_goals
    cases hi : paletteIndex p s
    case error => rw [encodePixel_of_index_error rfl hi]; exact .of_error _
    simp only [encodePixel, packPixel, hi]
  case idx.ok => exact emit_moves _
  case runi.ok => exact runStep_moves _ _ _
  all_goals exact packStep_moves _ _

theorem flushStream_moves (kind : RecordKind) : MovesEncoder s (flushStream kind s) := by
  cases kind
  case run | runi => exact flushRun_moves _
  case pack1 | pack2 | pack4 => exact packFlush_moves
  all_goals exact .of_ok [] s.work

end

/-! ### Every step of the engine -/

/-- Everything one step of the engine can do, phase by phase (R12, R108, R180, R197, R216, R220, R233, R262). -/
inductive EngineEffect (s : State) : State → Prop
  /-- no command is in progress -/
  | rests (hj : s.job = .none) : EngineEffect s s
  /-- the command in progress takes an error -/
  | raises (hj : s.job ≠ .none) (e : ErrKind) : EngineEffect s (raise e s)
  /-- `DEC` reads the fixed part of the header -/
  | headerLine (hj : s.job = .decHeader) (hfit : fits s.inLen.toNat s.caps.ibuf = true) (n k : Nat) {j : Job}
      (hnext : ∃ h, j = .decStream h ∨ j = .decPalette h 0) : EngineEffect s (setJob j (skipBytes n (setPalSize k s)))
  /-- `DEC` reads a palette entry -/
  | paletteLine {h : Hdr} {i : Nat} (hj : s.job = .decPalette h i) (p : Pixel) {j : Job}
      (hnext : j = .decStream h ∨ (i + 1 < h.k ∧ j = .decPalette h (i + 1))) :
      EngineEffect s (setJob j (skipBytes 3 (writePal i p s)))
  /-- `DEC` reads a record -/
  | record {h : Hdr} (hj : s.job = .decStream h) (hp : s.work.pix < h.pixels) {ps : List Pixel} (hps : 0 < ps.length)
      (len : Nat) (prev : Pixel) (acc : Byte) (accN : BitVec 4) : EngineEffect s (storeRecord ps len prev acc accN s)
  /-- `DEC` ends -/
  | decEnds {h : Hdr} (hj : s.job = .decStream h) : EngineEffect s (finishDec h s)
  /-- `ENC` passes its checks and has a palette to build -/
  | scanBegins (hj : s.job = .encStart) (kind : RecordKind) : EngineEffect s (setJob (.encPalette kind 0) (setPalSize 0 s))
  /-- `ENC` passes its checks and has no palette to build -/
  | noScan (hj : s.job = .encStart) (kind : RecordKind) : EngineEffect s (setJob (.encHeader kind) s)
  /-- `ENC` finds the pixel in the palette -/
  | known {kind : RecordKind} {i : Nat} (hj : s.job = .encPalette kind i) (hi : i < pixelCount s) :
      EngineEffect s (setJob (.encPalette kind (i + 1)) s)
  /-- `ENC` appends the pixel to the palette -/
  | appended {kind : RecordKind} {i : Nat} (hj : s.job = .encPalette kind i) (hi : i < pixelCount s) (k n : Nat) (p : Pixel) :
      EngineEffect s (setJob (.encPalette kind (i + 1)) (setPalSize k (writePal n p s)))
  /-- `ENC` has its palette -/
  | scanEnds {kind : RecordKind} {i : Nat} (hj : s.job = .encPalette kind i) : EngineEffect s (setJob (.encHeader kind) s)
  /-- `ENC` writes the fixed part of the header -/
  | headerOut {kind : RecordKind} (hj : s.job = .encHeader kind) (bs : List Byte) :
      EngineEffect s (setJob (.encPalOut kind 0) (emitBytes bs s))
  /-- `ENC` writes a palette entry -/
  | entryOut {kind : RecordKind} {i : Nat} (hj : s.job = .encPalOut kind i) (hi : i < entryCount s) (bs : List Byte) :
      EngineEffect s (setJob (.encPalOut kind (i + 1)) (emitBytes bs s))
  /-- `ENC` has written its palette -/
  | entriesEnd {kind : RecordKind} {i : Nat} (hj : s.job = .encPalOut kind i) : EngineEffect s (setJob (.encStream kind) s)
  /-- `ENC` encodes a pixel -/
  | pixelOut {kind : RecordKind} (hj : s.job = .encStream kind) (hp : s.work.pix < pixelCount s) (bs : List Byte) (w : Work) :
      EngineEffect s (nextPixel (encoderMove bs w s))
  /-- `ENC` writes what is left and ends -/
  | encEnds {kind : RecordKind} (hj : s.job = .encStream kind) (bs : List Byte) (w : Work) (hl k : Nat) :
      EngineEffect s (finishEnc hl k (encoderMove bs w s))

section
variable {s t u : State}

/-- A step that either completes with a listed effect or raises an error. -/
theorem EngineEffect.of_settle {r : Except Stop State} (hj : s.job ≠ .none) (hr : ∀ t, r = .ok t → EngineEffect s t)
    (ht : settle s r = .next t) : EngineEffect s t := by
  obtain hok | ⟨e, -, rfl⟩ := settle_next ht
  · exact hr t hok
  · exact .raises hj e

theorem beginStream_ok {h : Hdr} (ht : beginStream h u = .ok t) : t = setJob (.decStream h) u := by
  rcases beginStream_cases h u with ⟨he, -⟩ | ⟨he, -⟩ | ⟨he, -⟩ <;> cases he.symm.trans ht
  rfl

theorem parse12_effect {v : Byte} {w h : Half} (hj : s.job = .decHeader) (hfit : fits s.inLen.toNat s.caps.ibuf = true)
    (ht : parse12 v w h s = .ok t) : EngineEffect s t := by
  unfold parse12 at ht
  split at ht
  · cases ht
  split at ht
  · cases ht
  · rw [beginStream_ok ht]
    exact .headerLine hj hfit 12 0 ⟨_, .inl rfl⟩

theorem parse3_effect {hl w h : Half} {d f : Byte} (hj : s.job = .decHeader)
    (hfit : fits s.inLen.toNat s.caps.ibuf = true) (ht : parse3 hl w h d f s = .ok t) : EngineEffect s t := by
  unfold parse3 at ht
  split at ht
  · cases ht
  split at ht
  · cases ht
  · dsimp only at ht
    split at ht
    · rw [beginStream_ok ht]
      exact .headerLine hj hfit 14 _ ⟨_, .inl rfl⟩
    · cases ht
      exact .headerLine hj hfit 14 _ ⟨_, .inr rfl⟩

theorem loadEntry_effect {h : Hdr} {i : Nat} {p : Pixel} (hj : s.job = .decPalette h i) (ht : loadEntry h i p s = .ok t) :
    EngineEffect s t := by
  unfold loadEntry at ht
  dsimp only at ht
  split at ht
  · cases ht
    exact .paletteLine hj p (.inr ⟨‹_›, rfl⟩)
  · rw [beginStream_ok ht]
    exact .paletteLine hj p (.inl rfl)

theorem headerParseStep_effect (hj : s.job = .decHeader) (ht : headerParseStep s = .next t) : EngineEffect s t := by
  have hne : s.job ≠ .none := by simp [hj]
  unfold headerParseStep at ht
  split_ifs at ht with hfit
  · obtain ⟨e, -, -, rfl⟩ | ⟨i, -, -, -, -, hctx, hx⟩ := runRecordAt_next ht
    · exact .raises hne e
    cases i
    case hdr12 => rw [exec_hdr12_of_job hj] at hx; exact .of_settle hne (fun _ => parse12_effect hj hfit) hx
    case hdr3 => rw [exec_hdr3_of_job hj] at hx; exact .of_settle hne (fun _ => parse3_effect hj hfit) hx
    all_goals cases hctx
  · cases ht
    exact .raises hne _

theorem exec_pal_of_job {h : Hdr} {i : Nat} (hj : s.job = .decPalette h i) (r g b : Byte) :
    exec (.pal r g b) s = settle s (loadEntry h i ⟨r, g, b⟩ s) := by
  simp only [exec, execPal, hj]

theorem paletteEntry_effect {h : Hdr} {i : Nat} (hj : s.job = .decPalette h i) (ht : runRecordAt .palette s = .next t) :
    EngineEffect s t := by
  have hne : s.job ≠ .none := by simp [hj]
  obtain ⟨e, -, -, rfl⟩ | ⟨i, -, -, -, -, hctx, hx⟩ := runRecordAt_next ht
  · exact .raises hne e
  cases i
  case pal => rw [exec_pal_of_job hj] at hx; exact .of_settle hne (fun _ => loadEntry_effect hj) hx
  all_goals cases hctx

theorem decodeStep_effect {h : Hdr} (hj : s.job = .decStream h) (ht : decodeStep h s = .next t) : EngineEffect s t := by
  have hne : s.job ≠ .none := by simp [hj]
  unfold decodeStep at ht
  split_ifs at ht with hp
  · obtain ⟨e, -, -, rfl⟩ | ⟨i, -, -, -, -, hctx, hx⟩ := runRecordAt_next ht
    · exact .raises hne e
    · obtain ⟨e, rfl⟩ | ⟨ps, len, prev, acc, accN, hps, rfl⟩ := exec_stores hctx hx
      · exact .raises hne e
      · exact .record hj hp hps len prev acc accN
  · refine .of_settle hne (fun t hok => ?_) ht
    unfold endStream at hok
    split_ifs at hok
    cases hok
    exact .decEnds hj

theorem encStart_effect (hj : s.job = .encStart) (ht : encStart s = .ok t) : EngineEffect s t := by
  unfold encStart at ht
  split at ht
  · cases ht
  split at ht
  · cases ht
  split at ht
  · cases ht
  · split_ifs at ht <;> cases ht
    · exact .scanBegins hj _
    · exact .noScan hj _

theorem paletteStep_effect {kind : RecordKind} {i : Nat} (hj : s.job = .encPalette kind i)
    (ht : paletteStep kind i s = .ok t) : EngineEffect s t := by
  unfold paletteStep at ht
  split at ht
  · cases ht
    exact .scanEnds hj
  have hi : i < pixelCount s := by omega
  split at ht
  · cases ht
  split at ht
  · cases ht
  · cases ht
    exact .known hj hi
  · split at ht <;> cases ht
    exact .appended hj hi _ _ _

theorem headerStep_effect {kind : RecordKind} (hj : s.job = .encHeader kind) (ht : headerStep kind s = .ok t) :
    EngineEffect s t := by
  unfold headerStep at ht
  split at ht
  · cases ht
  · cases ht
    obtain ⟨-, rfl⟩ := emit_ok ‹_›
    exact .headerOut hj _

theorem paletteOutStep_effect {kind : RecordKind} {i : Nat} (hj : s.job = .encPalOut kind i)
    (ht : paletteOutStep kind i s = .ok t) : EngineEffect s t := by
  unfold paletteOutStep at ht
  split at ht
  · split at ht
    · cases ht
    split at ht
    · cases ht
    · cases ht
      obtain ⟨-, rfl⟩ := emit_ok ‹_›
      exact .entryOut hj ‹_› _
  · cases ht
    exact .entriesEnd hj

theorem encodeStep_effect {kind : RecordKind} (hj : s.job = .encStream kind) (ht : encodeStep kind s = .ok t) :
    EngineEffect s t := by
  unfold encodeStep at ht
  split at ht
  · split at ht
    · cases ht
    split at ht
    · cases ht
    · cases ht
      obtain ⟨bs, w, rfl⟩ := encodePixel_moves kind _ _ ‹_›
      exact .pixelOut hj ‹_› bs w
  · split at ht
    · cases ht
    · cases ht
      obtain ⟨bs, w, rfl⟩ := flushStream_moves kind _ ‹_›
      exact .encEnds hj bs w _ _

/-- Whatever a step of the engine does is listed. -/
theorem engineStep_effect (ht : engineStep s = .next t) : EngineEffect s t := by
  unfold engineStep at ht
  split at ht
  case h_1 hj => cases ht; exact .rests hj
  case h_2 hj => exact headerParseStep_effect hj ht
  case h_3 hj => exact paletteEntry_effect hj ht
  case h_4 hj => exact decodeStep_effect hj ht
  case h_5 hj => exact .of_settle (by simp [hj]) (fun _ => encStart_effect hj) ht
  case h_6 hj => exact .of_settle (by simp [hj]) (fun _ => paletteStep_effect hj) ht
  case h_7 hj => exact .of_settle (by simp [hj]) (fun _ => headerStep_effect hj) ht
  case h_8 hj => exact .of_settle (by simp [hj]) (fun _ => paletteOutStep_effect hj) ht
  case h_9 hj => exact .of_settle (by simp [hj]) (fun _ => encodeStep_effect hj) ht

/-! ### What no step of the engine writes -/

/-- What every step of the engine leaves alone, whatever the command (R40, R231). -/
structure InputsKept (s t : State) : Prop where
  ibuf : t.ibuf = s.ibuf
  inLen : t.inLen = s.inLen
  caps : t.caps = s.caps
  host : t.host = s.host
  resp : t.resp = s.resp

/-- What `DEC` leaves alone besides (R262). -/
structure DecKept (s t : State) : Prop where
  obuf : t.obuf = s.obuf
  outLen : t.outLen = s.outLen

/-- What `ENC` leaves alone besides (R196, R262). -/
structure EncKept (s t : State) : Prop where
  pmem : t.pmem = s.pmem
  version : t.version = s.version
  depth : t.depth = s.depth
  rle : t.rle = s.rle
  width : t.width = s.width
  height : t.height = s.height

theorem EngineEffect.inputsKept (h : EngineEffect s t) : InputsKept s t := by
  cases h
  case raises => constructor <;> simp
  all_goals constructor <;> rfl

theorem EngineEffect.decKept (h : EngineEffect s t) (hd : decoding s.job = true) : DecKept s t := by
  cases h
  case rests => exact ⟨rfl, rfl⟩
  case raises => rw [raise_of_decoding hd]; exact ⟨rfl, rfl⟩
  case headerLine | paletteLine | record | decEnds => exact ⟨rfl, rfl⟩
  all_goals exact absurd hd (by simp [decoding, *])

theorem EngineEffect.encKept (h : EngineEffect s t) (he : encoding s.job = true) : EncKept s t := by
  cases h
  case raises => rw [raise_of_encoding he]; constructor <;> rfl
  case headerLine | paletteLine | record | decEnds => exact absurd he (by simp [encoding, *])
  all_goals constructor <;> rfl

/-- Settles O54: each listed effect leaves alone what its command only reads. -/
theorem engineFrame : Obligations.EngineFrame := by
  intro s t ht
  have heff := engineStep_effect ht
  obtain ⟨hibuf, hlen, hcaps, hhost, hresp⟩ := heff.inputsKept
  refine ⟨hibuf, hlen, hcaps, hhost, hresp, fun hd => ?_, fun he => ?_⟩
  · obtain ⟨hobuf, hout⟩ := heff.decKept hd
    exact ⟨hobuf, hout⟩
  · obtain ⟨hpmem, hv, hd, hr, hw, hh⟩ := heff.encKept he
    exact ⟨hpmem, hv, hd, hr, hw, hh⟩

end

end Sys2Proof.Machine
end

section
/-! Every step keeps the four memories in canonical form (log 8). -/

namespace Sys2Proof.Machine

/-! ### The named updates -/

section
variable {s : State} (h : CanonicalMemories s)
include h

theorem CanonicalMemories.setHost (ops : List HostOp) : CanonicalMemories (setHost ops s) := { h with }

theorem CanonicalMemories.answer (r : Resp) : CanonicalMemories (answer r s) := { h with }

theorem CanonicalMemories.startCommand (j : Job) : CanonicalMemories (startCommand j s) := { h with }

theorem CanonicalMemories.clearCommand : CanonicalMemories (clearCommand s) := { h with }

theorem CanonicalMemories.writePal (i : Nat) (p : Pixel) : CanonicalMemories (writePal i p s) :=
  { h with pal := Memory.wf_write h.pal i p }

theorem CanonicalMemories.writePixel (i : Nat) (p : Pixel) : CanonicalMemories (writePixel i p s) :=
  { h with pmem := Memory.wf_write h.pmem i p }

theorem CanonicalMemories.writeByte (a : Nat) (v : Byte) : CanonicalMemories (writeByte a v s) :=
  { h with ibuf := Memory.wf_write h.ibuf a v }

theorem CanonicalMemories.storeRecord (ps : List Pixel) (len : Nat) (prev : Pixel) (acc : Byte) (accN : BitVec 4) :
    CanonicalMemories (storeRecord ps len prev acc accN s) :=
  { h with pmem := Memory.wf_writeRange ps h.pmem s.work.pix }

theorem CanonicalMemories.encoderMove (bs : List Byte) (w : Work) : CanonicalMemories (encoderMove bs w s) :=
  { h with obuf := Memory.wf_writeRange bs h.obuf s.work.wp }

theorem CanonicalMemories.finishDec (hd : Hdr) : CanonicalMemories (finishDec hd s) :=
  { h with
    pmem := by rw [finishDec_pmem]; exact Memory.wf_loosen h.pmem _ _
    pal := by rw [finishDec_pal]; exact Memory.wf_loosen h.pal _ _ }

theorem CanonicalMemories.finishEnc (hl k : Nat) : CanonicalMemories (finishEnc hl k s) :=
  { h with
    obuf := by rw [finishEnc_obuf]; exact Memory.wf_loosen h.obuf _ _
    pal := by rw [finishEnc_pal]; exact Memory.wf_loosen h.pal _ _ }

theorem CanonicalMemories.loseDec : CanonicalMemories (loseDec s) :=
  { h with
    pmem := by rw [loseDec_pmem]; exact Memory.wf_loosen h.pmem _ _
    pal := by rw [loseDec_pal]; exact Memory.wf_loosen h.pal _ _ }

theorem CanonicalMemories.loseEnc : CanonicalMemories (loseEnc s) :=
  { h with
    obuf := by rw [loseEnc_obuf]; exact Memory.wf_loosen h.obuf _ _
    pal := by rw [loseEnc_pal]; exact Memory.wf_loosen h.pal _ _ }

theorem CanonicalMemories.loseOutputs : CanonicalMemories (loseOutputs s) := by
  unfold Machine.loseOutputs
  split
  case h_1 => exact h
  case h_2 | h_3 | h_4 => exact h.loseDec
  all_goals exact h.loseEnc

theorem CanonicalMemories.raise (e : ErrKind) : CanonicalMemories (raise e s) := { h.loseOutputs with }

end

theorem canonicalMemories_resetEngine (s : State) : CanonicalMemories (resetEngine s) :=
  ⟨Memory.wf_nil, Memory.wf_nil, Memory.wf_nil, Memory.wf_nil⟩

/-! ### Steps of the engine -/

theorem EngineEffect.canonical {s t : State} (he : EngineEffect s t) (h : CanonicalMemories s) : CanonicalMemories t := by
  cases he
  case rests => exact h
  case raises => exact h.raise _
  case record => exact h.storeRecord _ _ _ _ _
  case decEnds => exact h.finishDec _
  case paletteLine | appended => exact { h.writePal _ _ with }
  case headerOut bs | entryOut bs => exact { h.encoderMove bs s.work with }
  case pixelOut bs w => exact { h.encoderMove bs w with }
  case encEnds bs w hl k => exact (h.encoderMove bs w).finishEnc hl k
  case headerLine | scanBegins | noScan | known | scanEnds | entriesEnd => exact { h with }

/-! ### Accesses of the host -/

section
variable {s t : State}

theorem unlessBusy_canonical {act : State → State} (h : CanonicalMemories s) (hact : CanonicalMemories (act s))
    (ht : unlessBusy act s = .next t) : CanonicalMemories t := by
  unfold unlessBusy at ht
  split_ifs at ht <;> cases ht
  · exact h
  · exact hact

theorem exec_command_canonical {op : BitVec 2} (h : CanonicalMemories s) (ht : exec (decodeCmd op) s = .next t) :
    CanonicalMemories t := by
  unfold decodeCmd at ht
  split_ifs at ht
  · exact unlessBusy_canonical h (h.startCommand .encStart) ht
  · exact unlessBusy_canonical h (h.startCommand .decHeader) ht
  · exact unlessBusy_canonical h h.clearCommand ht
  · exact unlessBusy_canonical (act := id) h h ht

/-- A read of a cell only answers. -/
theorem readCell_next {α : Type} {m : Space} {mem : Memory α} {cap : Option Nat} {resp : α → Resp} {a : Nat}
    (ht : readCell m mem cap resp a s = .next t) : ∃ r, t = answer r s := by
  unfold readCell at ht
  split_ifs at ht
  split at ht <;> cases ht
  exact ⟨_, rfl⟩

theorem readCell_canonical {α : Type} {m : Space} {mem : Memory α} {cap : Option Nat} {resp : α → Resp} {a : Nat}
    (h : CanonicalMemories s) (ht : readCell m mem cap resp a s = .next t) : CanonicalMemories t := by
  obtain ⟨r, rfl⟩ := readCell_next ht
  exact h.answer r

theorem portWriteReg_canonical {off : Nat} {v : Word} (h : CanonicalMemories s) (ht : portWriteReg off v s = .next t) :
    CanonicalMemories t := by
  unfold portWriteReg at ht
  split at ht <;> cases ht
  rename_i u hu
  rw [regWrite_some hu]
  exact { h with }

theorem hostAccess_canonical {op : HostOp} (h : CanonicalMemories s) (ht : hostAccess op s = .next t) :
    CanonicalMemories t := by
  unfold hostAccess at ht
  split_ifs at ht
  cases op
  case tick => cases ht; exact h
  case wait => cases ht; exact h.answer _
  case readReg =>
    simp only [portAccess, portReadReg] at ht
    split at ht <;> cases ht
    exact h.answer _
  case writeReg =>
    simp only [portAccess] at ht
    split_ifs at ht
    · exact exec_command_canonical (h.answer _) ht
    · exact portWriteReg_canonical h ht
  case readIbuf | readObuf | readPal => exact readCell_canonical h ht
  case writeIbuf =>
    simp only [portAccess, portWriteIbuf] at ht
    split_ifs at ht
    cases ht
    exact (h.writeByte _ _).answer _
  case pixelRead =>
    simp only [portAccess, portPixelRead] at ht
    split_ifs at ht
    · exact readCell_canonical h ht
    · cases ht; exact h.answer _
  case pixelWrite =>
    simp only [portAccess, portPixelWrite] at ht
    split_ifs at ht <;> cases ht
    · exact (h.writePixel _ _).answer _
    · exact h.answer _
  case rst => cases ht; exact (canonicalMemories_resetEngine s).answer _

end

/-- Settles O49: a step is a step of the engine or an access of the host, and each writes a memory only by the
operations that keep its form. -/
theorem stepKeepsMemories : Obligations.StepKeepsMemories := by
  intro s t h ht
  unfold step machineStep at ht
  split at ht
  · exact (engineStep_effect ht).canonical h
  · exact (engineStep_effect ht).canonical (h.setHost _)
  · split_ifs at ht
    · exact (engineStep_effect ht).canonical h
    · exact hostAccess_canonical (h.setHost _) ht
  · exact hostAccess_canonical (h.setHost _) ht

end Sys2Proof.Machine
end

section
/-! A started command ends: every step of the engine brings it nearer to its end, and none is a fault where its input
cells are written (R56, R295). -/

namespace Sys2Proof.Machine

/-! ### The descent -/

/-- How far a command is from its end: the number of its present phase, counted from the end, and the rounds of that
phase still to come. -/
def distance (s : State) : Nat × Nat :=
  match s.job with
  | .none => (0, 0)
  | .decHeader => (3, 0)
  | .decPalette h i => (2, h.k - i)
  | .decStream h => (1, h.pixels - s.work.pix)
  | .encStart => (5, 0)
  | .encPalette _ i => (4, pixelCount s - i)
  | .encHeader _ => (3, 0)
  | .encPalOut _ i => (2, entryCount s - i)
  | .encStream _ => (1, pixelCount s - s.work.pix)

/-- `t` is nearer to the end of its command than `s`: in a later phase, or in the same phase with fewer rounds left. -/
abbrev Nearer (t s : State) : Prop := Prod.Lex (· < ·) (· < ·) (distance t) (distance s)

theorem nearer_wellFounded : WellFounded Nearer :=
  InvImage.wf distance (WellFounded.prod_lex Nat.lt_wfRel.wf Nat.lt_wfRel.wf)

section
variable {s t : State}

theorem nearer_of_distance {a b c d : Nat} (hs : distance s = (c, d)) (ht : distance t = (a, b))
    (h : a < c ∨ a = c ∧ b < d) : Nearer t s := by
  rw [Nearer, ht, hs, Prod.lex_def]
  exact h

/-- The end of a command is nearer than every phase of it. -/
theorem nearer_of_no_job (hs : s.job ≠ .none) (ht : t.job = .none) : Nearer t s := by
  have hpos : ∃ n r, distance s = (n + 1, r) := by
    unfold distance
    split
    · exact absurd ‹_› hs
    all_goals exact ⟨_, _, rfl⟩
  obtain ⟨n, r, hd⟩ := hpos
  have hend : distance t = (0, 0) := by rw [distance, ht]
  exact nearer_of_distance hd hend (.inl n.succ_pos)

theorem EngineEffect.nearer (h : EngineEffect s t) (hs : s.job ≠ .none) : Nearer t s := by
  cases h with
  | rests hj => exact absurd hj hs
  | raises => exact nearer_of_no_job hs (raise_job _ s)
  | decEnds | encEnds => exact nearer_of_no_job hs rfl
  | headerLine hj _ _ _ hnext =>
    obtain ⟨h, rfl | rfl⟩ := hnext <;> exact nearer_of_distance (by rw [distance, hj]) rfl (.inl (by decide))
  | paletteLine hj _ hnext =>
    rcases hnext with rfl | ⟨hlt, rfl⟩
    · exact nearer_of_distance (by rw [distance, hj]) rfl (.inl (by decide))
    · exact nearer_of_distance (by rw [distance, hj]) rfl (.inr ⟨rfl, Nat.sub_succ_lt_self _ _ (by omega)⟩)
  | @record h hj hp ps hps len prev acc accN =>
    have hdt : distance (storeRecord ps len prev acc accN s) = (1, h.pixels - (s.work.pix + ps.length)) := by
      rw [distance, show (storeRecord ps len prev acc accN s).job = .decStream h from hj]
      rfl
    exact nearer_of_distance (by rw [distance, hj]) hdt (.inr ⟨rfl, by omega⟩)
  | known hj hi | appended hj hi | entryOut hj hi =>
    exact nearer_of_distance (by rw [distance, hj]; rfl) rfl (.inr ⟨rfl, Nat.sub_succ_lt_self _ _ hi⟩)
  | pixelOut hj hp bs w =>
    have hdt : distance (nextPixel (encoderMove bs w s)) = (1, pixelCount s - (s.work.pix + 1)) := by
      rw [distance, nextPixel_job, encoderMove_job, hj]
      rfl
    exact nearer_of_distance (by rw [distance, hj]) hdt (.inr ⟨rfl, Nat.sub_succ_lt_self _ _ hp⟩)
  | scanBegins hj | noScan hj | scanEnds hj | headerOut hj | entriesEnd hj =>
    exact nearer_of_distance (by rw [distance, hj]) rfl (.inl (by decide))

/-! ### The input cells stay written -/

theorem EngineEffect.ready (h : EngineEffect s t) (hr : Ready s) : Ready t := by
  cases h with
  | rests => exact hr
  | raises | decEnds | encEnds => simp [Ready]
  | headerLine hj hfit _ _ hnext =>
    rw [Ready, hj] at hr
    obtain ⟨h, rfl | rfl⟩ := hnext <;> exact hr hfit
  | paletteLine hj _ hnext =>
    rw [Ready, hj] at hr
    rcases hnext with rfl | ⟨-, rfl⟩ <;> exact hr
  | @record h hj _ ps _ len prev acc accN =>
    rw [Ready, show (storeRecord ps len prev acc accN s).job = .decStream h from hj]
    rw [Ready, hj] at hr
    exact hr
  | pixelOut hj =>
    rw [Ready, nextPixel_job, encoderMove_job, hj]
    rw [Ready, hj] at hr
    exact hr
  | scanBegins hj | noScan hj | known hj | appended hj | scanEnds hj | headerOut hj | entryOut hj | entriesEnd hj =>
    rw [Ready, hj] at hr
    exact hr

end

/-! ### No step is a fault -/

/-- A result that is no fault of the model. -/
def Defined {α : Type} (r : Except Stop α) : Prop := ∀ f, r ≠ .error (.fault f)

section
variable {α : Type} {s : State}

theorem Defined.of_ok (a : α) : Defined (.ok a) := fun _ h => nomatch h

theorem Defined.of_err (e : ErrKind) : Defined (.error (.err e) : Except Stop α) := fun _ h => nomatch h

theorem Defined.settle {r : Except Stop State} (h : Defined r) (f : Fault) : settle s r ≠ .fault f := by
  rcases r with (e | g) | t
  · simp
  · exact absurd rfl (h g)
  · simp

theorem beginStream_defined (h : Hdr) (s : State) : Defined (beginStream h s) := by
  rcases beginStream_cases h s with ⟨he, -⟩ | ⟨he, -⟩ | ⟨he, -⟩ <;> rw [he]
  · exact .of_err _
  · exact .of_err _
  · exact .of_ok _

theorem parse12_defined (v : Byte) (w h : Half) (s : State) : Defined (parse12 v w h s) := by
  unfold parse12
  split
  · exact .of_err _
  split
  · exact .of_err _
  · exact beginStream_defined _ _

theorem parse3_defined (hl w h : Half) (d f : Byte) (s : State) : Defined (parse3 hl w h d f s) := by
  unfold parse3
  split
  · exact .of_err _
  split
  · exact .of_err _
  · dsimp only
    split
    · exact beginStream_defined _ _
    · exact .of_ok _

theorem loadEntry_defined (h : Hdr) (i : Nat) (p : Pixel) (s : State) : Defined (loadEntry h i p s) := by
  unfold loadEntry
  dsimp only
  split
  · exact .of_ok _
  · exact beginStream_defined _ _

/-- A record step is no fault where the file is written and what is executed is none. -/
theorem runRecordAt_not_fault {c : Ctx} {f : Fault} (hfile : ∀ a < s.inLen.toNat, s.ibuf.read a ≠ none)
    (hexec : ∀ i, ctxOf i = c → exec i s ≠ .fault f) : runRecordAt c s ≠ .fault f := by
  obtain ⟨B, hB⟩ := (Memory.readRange_isSome s.ibuf 0 s.inLen.toNat).2 fun a ha => by simpa using hfile a ha
  rw [runRecordAt_of_file hB]
  cases hd : decode c (B.drop s.work.rp) with
  | error e => cases e <;> simp [recordOutcome]
  | ok x => exact hexec x.1 (decode_ctx hd)

/-- No instruction that `DEC` reads in a legal state is a fault: its palette is written (R216). -/
theorem exec_record_not_fault {h : Hdr} {i : Instr} {f : Fault} (hi : EngineInv s) (hj : s.job = .decStream h)
    (hctx : ctxOf i = .stream h.kind) (hp : s.work.pix < h.pixels) : exec i s ≠ .fault f := by
  have hjob := hi.job
  simp only [JobInv, hj] at hjob
  obtain ⟨-, -, -, -, -, hsize, hw⟩ := hjob
  obtain ⟨pal, hpal⟩ := exists_paletteIs hsize hw
  have hdoes := exec_record hj hctx hp hpal
  cases hres : recordPixels pal s.work.prev (h.pixels - s.work.pix) i with
  | error e =>
    rw [hres] at hdoes
    simp [show exec i s = _ from hdoes]
  | ok ps =>
    rw [hres] at hdoes
    obtain ⟨_, _, _, hexec, -⟩ := hdoes
    simp [hexec]

theorem headerParseStep_not_fault {f : Fault} (hr : Ready s) (hj : s.job = .decHeader) : headerParseStep s ≠ .fault f := by
  rw [Ready, hj] at hr
  unfold headerParseStep
  split_ifs with hfit
  · refine runRecordAt_not_fault (hr hfit) fun i hctx => ?_
    cases i
    case hdr12 v w h => rw [exec_hdr12_of_job hj]; exact (parse12_defined v w h s).settle f
    case hdr3 hl w h d g => rw [exec_hdr3_of_job hj]; exact (parse3_defined hl w h d g s).settle f
    all_goals cases hctx
  · simp

theorem paletteEntry_not_fault {h : Hdr} {i : Nat} {f : Fault} (hr : Ready s) (hj : s.job = .decPalette h i) :
    runRecordAt .palette s ≠ .fault f := by
  rw [Ready, hj] at hr
  refine runRecordAt_not_fault hr fun x hctx => ?_
  cases x
  case pal r g b => rw [exec_pal_of_job hj]; exact (loadEntry_defined h i ⟨r, g, b⟩ s).settle f
  all_goals cases hctx

theorem decodeStep_not_fault {h : Hdr} {f : Fault} (hi : EngineInv s) (hr : Ready s) (hj : s.job = .decStream h) :
    decodeStep h s ≠ .fault f := by
  rw [Ready, hj] at hr
  unfold decodeStep
  split_ifs with hp
  · exact runRecordAt_not_fault hr fun i hctx => exec_record_not_fault hi hj hctx hp
  · refine Defined.settle ?_ f
    unfold endStream
    split_ifs
    · exact .of_ok _
    · exact .of_err _

theorem encStart_defined (s : State) : Defined (encStart s) := by
  unfold encStart
  split
  · exact .of_err _
  split
  · exact .of_err _
  split
  · exact .of_err _
  · split_ifs <;> exact .of_ok _

/-- A written pixel of the image. -/
theorem exists_readPixel {i : Nat} (h : s.pmem.read i ≠ none) : ∃ p, readPixel i s = .ok p := by
  obtain ⟨p, hp⟩ := Option.ne_none_iff_exists'.1 h
  exact ⟨p, readPixel_ok.2 hp⟩

/-- The scan of a palette whose entries are written is no fault (R108, R110). -/
theorem paletteScan_defined (hw : palWritten s s.palSize.toNat) (p : Pixel) :
    Defined (paletteScan s.pal p 0 s.palSize.toNat) := by
  intro f hf
  obtain ⟨i, -, hi, hnone, -⟩ := paletteScan_error hf
  exact hw i (by omega) hnone

theorem paletteStep_defined {kind : RecordKind} {i : Nat} (hi : EngineInv s) (hr : Ready s)
    (hj : s.job = .encPalette kind i) : Defined (paletteStep kind i s) := by
  have hjob := hi.job
  simp only [JobInv, hj] at hjob
  obtain ⟨-, -, -, -, -, -, hw, -⟩ := hjob
  rw [Ready, hj] at hr
  unfold paletteStep
  split
  · exact .of_ok _
  obtain ⟨p, hp⟩ := exists_readPixel (hr i (by omega))
  simp only [hp]
  split
  · rename_i e he
    exact fun f hf => paletteScan_defined hw p f (by cases hf; exact he)
  · exact .of_ok _
  · split
    · exact .of_err _
    · exact .of_ok _

theorem headerStep_defined (kind : RecordKind) (s : State) : Defined (headerStep kind s) := by
  unfold headerStep
  split
  · rename_i e he
    rw [emit_error he]
    exact .of_err _
  · exact .of_ok _

theorem paletteOutStep_defined {kind : RecordKind} {i : Nat} (hi : EngineInv s) (hj : s.job = .encPalOut kind i) :
    Defined (paletteOutStep kind i s) := by
  have hjob := hi.job
  simp only [JobInv, hj] at hjob
  obtain ⟨-, -, hbuilt, -⟩ := hjob
  unfold paletteOutStep
  split
  · rename_i hlt
    unfold entryCount at hlt
    split_ifs at hlt with huse
    · obtain ⟨-, hw, -⟩ := hbuilt huse
      obtain ⟨p, hp⟩ := Option.ne_none_iff_exists'.1 (hw i hlt)
      simp only [hp]
      split
      · rename_i e he
        rw [emit_error he]
        exact .of_err _
      · exact .of_ok _
    · omega
  · exact .of_ok _

/-- In a legal state the palette that `ENC` built has an index for every pixel (R110). -/
theorem exists_paletteIndex {i : Nat} {p : Pixel} (hw : palWritten s s.palSize.toNat)
    (hcov : palCovers s (pixelCount s)) (hi : i < pixelCount s) (hp : s.pmem.read i = some p) :
    ∃ j, paletteIndex p s = .ok j := by
  obtain ⟨q, hq, hqp⟩ := hcov i hi p hp
  unfold paletteIndex
  cases hscan : paletteScan s.pal p 0 s.palSize.toNat with
  | error e =>
    cases e with
    | err e => exact absurd hscan paletteScan_not_err
    | fault f => exact absurd hscan (paletteScan_defined hw p f)
  | ok found =>
    cases found with
    | some j => exact ⟨j, rfl⟩
    | none =>
      obtain ⟨r, hr, hne⟩ := paletteScan_none hscan q q.zero_le (by omega)
      exact absurd (Option.some.inj (hr.symm.trans hqp)) hne

theorem encodeStep_defined {kind : RecordKind} (hi : EngineInv s) (hr : Ready s) (hj : s.job = .encStream kind) :
    Defined (encodeStep kind s) := by
  have hjob := hi.job
  simp only [JobInv, hj] at hjob
  obtain ⟨⟨-, -, hkind⟩, hbuilt, -, -, hroom, -⟩ := hjob
  rw [Ready, hj] at hr
  unfold encodeStep
  split
  · rename_i hp
    obtain ⟨p, hread⟩ := exists_readPixel (hr _ hp)
    obtain ⟨j, hj⟩ : ∃ j, indexed kind = true → paletteIndex p s = .ok j := by
      by_cases hk : indexed kind = true
      · obtain ⟨-, hw, hcov⟩ := hbuilt (usesPalette_of_indexed hkind hk)
        obtain ⟨j, hj⟩ := exists_paletteIndex hw hcov hp (readPixel_ok.1 hread)
        exact ⟨j, fun _ => hj⟩
      · exact ⟨0, fun hk' => absurd hk' hk⟩
    simp only [hread, encodePixel_eq hroom hj, moveOrOverflow]
    split_ifs
    · exact .of_ok _
    · exact .of_err _
  · obtain ⟨w, hw⟩ := flushStream_eq (kind := kind) hroom
    simp only [hw, moveOrOverflow]
    split_ifs
    · exact .of_ok _
    · exact .of_err _

/-- Where its input cells are written, no step of a legal state's command is a fault. -/
theorem engineStep_not_fault (hi : EngineInv s) (hr : Ready s) (f : Fault) : engineStep s ≠ .fault f := by
  unfold engineStep
  split
  case h_1 => simp
  case h_2 hj => exact headerParseStep_not_fault hr hj
  case h_3 hj => exact paletteEntry_not_fault hr hj
  case h_4 hj => exact decodeStep_not_fault hi hr hj
  case h_5 => exact (encStart_defined s).settle f
  case h_6 hj => exact (paletteStep_defined hi hr hj).settle f
  case h_7 => exact (headerStep_defined _ s).settle f
  case h_8 hj => exact (paletteOutStep_defined hi hj).settle f
  case h_9 hj => exact (encodeStep_defined hi hr hj).settle f

/-! ### The end of the command -/

theorem exists_engineStep_next (hi : EngineInv s) (hr : Ready s) : ∃ t, engineStep s = .next t := by
  cases ht : engineStep s with
  | next t => exact ⟨t, rfl⟩
  | fault f => exact absurd ht (engineStep_not_fault hi hr f)
  | refused x => exact absurd ht (engineStep_not_refused s x)

end

/-- Settles O55: each step is defined, keeps the state legal and its input cells written, and is nearer to the end. -/
theorem commandEnds : Obligations.CommandEnds := by
  intro s
  induction s using nearer_wellFounded.induction with
  | h s ih =>
    intro hi hr hh
    by_cases hj : s.job = .none
    · exact ⟨0, s, rfl, fun hb => hi.control.busy_iff.1 hb hj⟩
    · obtain ⟨t, ht⟩ := exists_engineStep_next hi hr
      have heff := engineStep_effect ht
      obtain ⟨n, u, hrun, hend⟩ := ih t (heff.nearer hj) (engineStep_keeps hi ht) (heff.ready hr)
        (heff.inputsKept.host.trans hh)
      exact ⟨n + 1, u, by rw [runSteps, step_of_no_host hh, ht]; exact hrun, hend⟩

end Sys2Proof.Machine
end

section
/-! Sample words, and what packing fixes of a stream: its length and its padding. -/

namespace Sys2Proof.Machine

/-! ### Sample words -/

/-- The bytes of a well-formed instruction decode to it (R61 to R83). -/
theorem decode_of_encode {i : Instr} {bs : List Byte} (hw : WellFormed i) (h : encode i = bs) :
    decode (ctxOf i) bs = .ok (i, []) := by
  have hdec := decodeEncode i [] hw
  rwa [List.append_nil, h] at hdec

/-- Settles O4: each word is the encoding of its instruction. -/
theorem sampleWords : Obligations.SampleWords :=
  ⟨decode_of_encode (i := .small 1 (-2) 0) (by decide) (by decide),
    decode_of_encode (i := .inter 5 10 3) (by decide) (by decide),
    decode_of_encode (i := .bigr 10 0 0) (by decide) (by decide),
    decode_of_encode (i := .bigg 70 100 131) (by decide) (by decide),
    decode_of_encode (i := .bigb 140 150 125) (by decide) (by decide),
    decode_of_encode (i := .new 5 6 7) (by decide) (by decide),
    decode_of_encode (i := .pack2 1 2 3 0) (by decide) (by decide),
    decode_of_encode (i := .hdr12 1 300 2) (by decide) (by decide)⟩

/-! ### The padding of a packed stream -/

/-- Lanes before lane `m` leave the bits below them free (R120). -/
theorem dvd_laneSum {d m n : Nat} {lanes : List Nat} (h : n + lanes.length ≤ m) : 2 ^ (8 - d * m) ∣ laneSum d n lanes := by
  induction lanes generalizing n with
  | nil => exact dvd_zero _
  | cons x xs ih =>
    rw [List.length_cons] at h
    have hle : d * (n + 1) ≤ d * m := Nat.mul_le_mul_left d (by omega)
    rw [laneSum_cons]
    exact dvd_add (Dvd.dvd.mul_left (pow_dvd_pow 2 (by omega)) x) (ih (by omega))

/-- A byte of packed lanes has 0 in the lanes that are missing (R120, R121). -/
theorem padding_of_packByte {d : Nat} (hd : d ∣ 8) (lanes : List Nat) :
    (byteOf (packByte d lanes)).toNat % 2 ^ (d * (lanesPerByte d - lanes.length)) = 0 := by
  have hbits : d * (lanesPerByte d - lanes.length) = 8 - d * lanes.length := by
    rw [Nat.mul_sub, lanesPerByte, Nat.mul_div_cancel' hd]
  have hdvd : 2 ^ (8 - d * lanes.length) ∣ laneSum d 0 lanes := dvd_laneSum (by omega)
  rw [hbits, byteOf, BitVec.toNat_ofNat, Nat.mod_mod_of_dvd _ (pow_dvd_pow 2 (Nat.sub_le 8 _))]
  exact Nat.mod_eq_zero_of_dvd hdvd

theorem packBytes_nil (d fuel : Nat) : packBytes d fuel [] = [] := by
  cases fuel <;> rfl

/-- The last byte of a packed stream, if it is not full, has its padding 0 (R121, R125). -/
theorem padding_of_packBytes {d fuel : Nat} {idx : List Nat} (hd : d ∣ 8) (hk : 0 < lanesPerByte d)
    (hf : idx.length ≤ fuel) (hpart : idx.length % lanesPerByte d ≠ 0) {b : Byte}
    (hb : b ∈ (packBytes d fuel idx).getLast?) :
    b.toNat % 2 ^ (d * (lanesPerByte d - idx.length % lanesPerByte d)) = 0 := by
  induction fuel generalizing idx with
  | zero =>
    obtain rfl : idx = [] := List.length_eq_zero_iff.1 (by omega)
    exact absurd (Nat.zero_mod _) hpart
  | succ fuel ih =>
    cases idx with
    | nil => exact absurd (Nat.zero_mod _) hpart
    | cons i is =>
      simp only [packBytes] at hb
      generalize hgroup : i :: is = idx at *
      have hpos : 0 < idx.length := by rw [← hgroup]; exact Nat.succ_pos _
      rcases Nat.lt_or_ge idx.length (lanesPerByte d) with hlast | hmore
      · rw [List.drop_eq_nil_of_le hlast.le, List.take_of_length_le hlast.le, packBytes_nil] at hb
        obtain rfl : byteOf (packByte d idx) = b := by simpa using hb
        rw [Nat.mod_eq_of_lt hlast]
        exact padding_of_packByte hd idx
      · generalize hrest : idx.drop (lanesPerByte d) = rest at hb
        have hlen : rest.length = idx.length - lanesPerByte d := by rw [← hrest, List.length_drop]
        have hmod : rest.length % lanesPerByte d = idx.length % lanesPerByte d := by rw [hlen, ← Nat.mod_eq_sub_mod hmore]
        have hne : rest.length ≠ 0 := fun h0 => hpart (by rw [← hmod, h0, Nat.zero_mod])
        have hbytes : 0 < (packBytes d fuel rest).length := by
          rw [packBytes_length hk (by omega)]
          exact Nat.div_pos (by omega) hk
        obtain ⟨c, cs, hc⟩ := List.exists_cons_of_length_pos hbytes
        rw [hc, List.getLast?_cons_cons, ← hc] at hb
        rw [← hmod]
        exact ih (by omega) (by rwa [hmod]) hb

theorem unpack_length {d n : Nat} {S : List Byte} (hn : n ≤ S.length * lanesPerByte d) : (unpack d n S).length = n := by
  rw [unpack, List.length_take, List.length_flatMap]
  simp only [lanesOf_length, List.map_const', List.sum_replicate, smul_eq_mul]
  omega

/-- Settles O8: packing fixes the number of bytes and the padding, so a stream that it gives back has them. -/
theorem packRoundTrip : Obligations.PackRoundTrip := by
  intro d hd
  have hdvd : d ∣ 8 := by rcases hd with rfl | rfl | rfl <;> decide
  have hk : 0 < lanesPerByte d := by rcases hd with rfl | rfl | rfl <;> decide
  refine ⟨fun idx hb => unpack_packBytes hk hb le_rfl, fun S n hn hS => ?_⟩
  have hlen := unpack_length hn
  refine ⟨?_, fun hpart b hb => ?_⟩
  · rw [← hlen, ← packBytes_length hk (le_refl (unpack d n S).length)]
    exact congrArg List.length hS.symm
  · rw [← hS] at hb
    have hpad := padding_of_packBytes hdvd hk (le_refl (unpack d n S).length) (by rwa [hlen]) hb
    rwa [hlen] at hpad

end Sys2Proof.Machine
end

section
/-! The size of a file and its header fields, by configuration. -/

namespace Sys2Proof.Machine

/-! ### The length of a stream -/

theorem encode_length_of_delta {i : Instr} (h : ctxOf i = .stream .delta) :
    1 ≤ (encode i).length ∧ (encode i).length ≤ 4 := by
  cases i <;> cases h
  all_goals exact ⟨Nat.le_add_left 1 _, by simp [encode, bigBytes]⟩

/-- A version 4 stream has one to four bytes for each pixel (R84, R139). -/
theorem deltaEnc_length (prev : Pixel) (px : List Pixel) :
    px.length ≤ (deltaEnc prev px).length ∧ (deltaEnc prev px).length ≤ 4 * px.length := by
  induction px generalizing prev with
  | nil => exact ⟨le_rfl, le_rfl⟩
  | cons p px ih =>
    obtain ⟨hlo, hhi⟩ := ih p
    obtain ⟨hone, hfour⟩ := encode_length_of_delta (blockOf_blockFor prev p).ctx
    rw [deltaEnc, List.length_append, List.length_cons]
    omega

theorem length_flatMap_const {α β : Type} {f : α → List β} {n : Nat} {xs : List α} (h : ∀ x ∈ xs, (f x).length = n) :
    (xs.flatMap f).length = n * xs.length := by
  rw [List.length_flatMap, List.map_congr_left h, List.map_const', List.sum_replicate, smul_eq_mul, Nat.mul_comm]

/-- What a stream of `m` bytes says of the length of the image, by kind of record (R192). -/
def StreamSize (kind : RecordKind) (pal px : List Pixel) (m : Nat) : Prop :=
  match kind with
  | .pix => m = 3 * px.length
  | .run => m = 4 * (rleEnc px).length
  | .idx => m = px.length
  | .runi => m = 2 * (rleEnc (px.map (indexIn pal))).length
  | .pack1 => m = ceilDiv px.length 8
  | .pack2 => m = ceilDiv px.length 4
  | .pack4 => m = ceilDiv px.length 2
  | .delta => px.length ≤ m ∧ m ≤ 4 * px.length

theorem streamSize_streamEnc (kind : RecordKind) (pal px : List Pixel) :
    StreamSize kind pal px (streamEnc kind pal px).length := by
  have hpack : ∀ d, 0 < lanesPerByte d →
      (pack d (px.map (indexIn pal))).length = ceilDiv px.length (lanesPerByte d) := fun d hd => by
    rw [pack, packBytes_length hd le_rfl, List.length_map]
  cases kind
  case pix => exact length_flatMap_const fun _ _ => rfl
  case run => exact length_flatMap_const fun _ _ => rfl
  case idx => exact List.length_map _
  case runi => exact length_flatMap_const fun _ _ => rfl
  case pack1 => exact hpack 1 (by decide)
  case pack2 => exact hpack 2 (by decide)
  case pack4 => exact hpack 4 (by decide)
  case delta => exact deltaEnc_length Pixel.black px

/-! ### The header -/

/-- What a successful `ENCODE` delivers is the file with the palette of its configuration (R195, R197). -/
theorem encodeWithin_ok {caps : Caps} {c : EncConfig} {kind : RecordKind} {w h : Half} {px : List Pixel} {r : Encoded}
    (hr : encodeWithin caps c w h px = .ok r) (hs : Selects c.version c.depth c.rle kind) :
    legalConfig c.version c.depth ∧ paletteFor c px = .ok r.pal ∧ r.file = fileWith c kind w h r.pal px := by
  unfold encodeWithin at hr
  split at hr
  · cases hr
  rename_i hlegal
  split at hr
  · cases hr
  rw [selects_streamKind hs] at hr
  dsimp only at hr
  split at hr
  · cases hr
  rename_i pal hpal
  split at hr <;> cases hr
  exact ⟨not_not.1 hlegal, hpal, rfl⟩

/-- The palette of a file has at most 256 entries (R24, R108). -/
theorem paletteFor_length {c : EncConfig} {px pal : List Pixel} (hlegal : legalConfig c.version c.depth)
    (h : paletteFor c px = .ok pal) : pal.length ≤ 256 := by
  unfold paletteFor at h
  split_ifs at h with huse
  · rw [paletteBuilder] at h
    split_ifs at h with hcap
    cases h
    exact le_trans hcap (two_pow_depth_le hlegal huse)
  · cases h
    exact Nat.zero_le _

/-- The length of the header of a file with a palette of `k` entries (R50). -/
def fileHeaderLength (version : Byte) (k : Nat) : Nat := if version = 3 then 14 + 3 * k else 12

/-- The fields of the header's bytes that R184, R186 and R192 fix. -/
structure HeaderShows (c : EncConfig) (pal : List Pixel) (B : List Byte) : Prop where
  length : (le16 (B.getD 6 0) (B.getD 7 0)).toNat = fileHeaderLength c.version pal.length
  depth : c.version = 3 → B.getD 12 0 = c.depth
  flag : c.version = 3 → B.getD 13 0 = effectiveRle c.depth c.rle

theorem headerShows_headerBytes (c : EncConfig) (w h : Half) {pal : List Pixel} (hpal : pal.length ≤ 256)
    (stream : List Byte) : HeaderShows c pal (headerBytes c w h pal ++ stream) := by
  by_cases hv : c.version = 3
  · rw [headerBytes, if_pos hv]
    refine ⟨?_, fun _ => rfl, fun _ => rfl⟩
    rw [fileHeaderLength, if_pos hv]
    refine (congrArg BitVec.toNat (le16_of_le16Bytes (BitVec.ofNat 16 (14 + 3 * pal.length)))).trans ?_
    rw [BitVec.toNat_ofNat]
    omega
  · rw [headerBytes, if_neg hv]
    refine ⟨?_, fun h3 => absurd h3 hv, fun h3 => absurd h3 hv⟩
    rw [fileHeaderLength, if_neg hv]
    exact congrArg BitVec.toNat (le16_of_le16Bytes 12)

theorem headerBytes_length (c : EncConfig) (w h : Half) (pal : List Pixel) :
    (headerBytes c w h pal).length = fileHeaderLength c.version pal.length := by
  unfold headerBytes fileHeaderLength
  split_ifs
  · rw [List.length_append, encode_hdr3_length, flatMap_pixelBytes_length]
  · exact encode_hdr12_length _ _ _

/-- Settles O14: the header has its length, and the stream the bytes of its records. -/
theorem fileSize : Obligations.FileSize := by
  intro caps c w h px r kind hr hs
  obtain ⟨hlegal, hpal, hfile⟩ := encodeWithin_ok hr hs
  obtain ⟨hlen, hdepth, hflag⟩ : HeaderShows c r.pal r.file :=
    hfile ▸ headerShows_headerBytes c w h (paletteFor_length hlegal hpal) (streamEnc kind r.pal px)
  have hsize := streamSize_streamEnc kind r.pal px
  have hbytes : r.file.length = fileHeaderLength c.version r.pal.length + (streamEnc kind r.pal px).length := by
    rw [hfile, fileWith, List.length_append, headerBytes_length]
  refine ⟨_, rfl, hlen, fun h3 => ⟨hdepth h3, hflag h3⟩, ?_⟩
  rw [hbytes]
  cases kind
  case delta =>
    obtain ⟨hlo, hhi⟩ := hsize
    exact ⟨Nat.add_le_add_left hlo _, Nat.add_le_add_left hhi _⟩
  all_goals exact congrArg _ hsize

end Sys2Proof.Machine
end

section
/-! The step at an open context: it fetches, decodes and executes, or ends on a file that is cut short or refused. -/

namespace Sys2Proof.Machine

/-! ### What is fetched is decoded and executed -/

section
variable {s : State} {c : Ctx} {i : Instr}

/-- The phases of `DEC` that read the file, and the context of each (R47, R220). -/
theorem openCtx_some (h : openCtx s = some c) :
    (c = .header ∧ s.job = .decHeader ∧ fits s.inLen.toNat s.caps.ibuf = true) ∨
    (c = .palette ∧ ∃ hd i, s.job = .decPalette hd i) ∨
    ∃ hd, c = .stream hd.kind ∧ s.job = .decStream hd ∧ s.work.pix < hd.pixels := by
  unfold openCtx at h
  cases hj : s.job <;> simp only [hj] at h
  case decHeader =>
    split_ifs at h with hfit
    cases h
    exact .inl ⟨rfl, rfl, hfit⟩
  case decPalette hd i =>
    cases h
    exact .inr (.inl ⟨rfl, hd, i, rfl⟩)
  case decStream hd =>
    split_ifs at h with hp
    cases h
    exact .inr (.inr ⟨hd, rfl, rfl, hp⟩)
  all_goals cases h

/-- Where a context is open the engine reads a record of it. -/
theorem engineStep_of_openCtx (h : openCtx s = some c) : engineStep s = runRecordAt c s := by
  rcases openCtx_some h with ⟨rfl, hj, hfit⟩ | ⟨rfl, hd, i, hj⟩ | ⟨hd, rfl, hj, hp⟩ <;> rw [engineStep, hj]
  · exact if_pos hfit
  · exact if_pos hp

theorem step_of_openCtx (hh : s.host = []) (h : openCtx s = some c) : step s = runRecordAt c s := by
  rw [step_of_no_host hh, engineStep_of_openCtx h]

theorem runRecordAt_of_decoded {bs rest : List Byte} (hf : fetchRecord c s = .bytes bs)
    (hd : decode c bs = .ok (i, rest)) : runRecordAt c s = exec i s := by
  simp only [runRecordAt, hf, hd]

/-- Settles O15: the context, the fetch and the decoder do not look at the host's accesses. -/
theorem stepRunsDecoded : Obligations.StepRunsDecoded := by
  intro s c bs rest i ho hf hd
  refine ⟨fun hh => ?_, fun ops hh => ?_⟩
  · rw [step_of_openCtx hh ho, runRecordAt_of_decoded hf hd]
  · rw [step_of_tick hh, engineStep_of_openCtx (s := setHost ops s) ho, runRecordAt_of_decoded (s := setHost ops s) hf hd]

/-- The fetch finds the length of a well-formed instruction from its first bytes (R47, R64, R84, R210). -/
theorem recordLen_take_encode (hw : WellFormed i) :
    needBytes (ctxOf i) ≤ (encode i).length ∧
    recordLen (ctxOf i) ((encode i).take (needBytes (ctxOf i))) = (encode i).length := by
  have hdec : decode (ctxOf i) (encode i) = .ok (i, []) := by simpa using decodeEncode i [] hw
  have hcases := decode_cases (ctxOf i) (encode i)
  split_ifs at hcases with hneed
  · cases hdec.symm.trans hcases
  refine ⟨not_lt.1 hneed, ?_⟩
  unfold DecodesBy at hcases
  split_ifs at hcases with hlen
  · cases hdec.symm.trans hcases
  rcases hcases with ⟨e, -, herr, -⟩ | ⟨j, hj, -⟩
  · cases hdec.symm.trans herr
  · have hrest : (encode i).drop (recordLen (ctxOf i) ((encode i).take (needBytes (ctxOf i)))) = [] := by
      injection hdec.symm.trans hj with hpair
      exact (congrArg Prod.snd hpair).symm
    have := List.drop_eq_nil_iff.1 hrest
    omega

theorem fetchRecord_of_encode (hw : WellFormed i) (hin : s.work.rp + (encode i).length ≤ s.inLen.toNat)
    (hread : s.ibuf.readRange s.work.rp (encode i).length = some (encode i)) :
    fetchRecord (ctxOf i) s = .bytes (encode i) := by
  obtain ⟨hneed, hlen⟩ := recordLen_take_encode hw
  have hfirst : s.ibuf.readRange s.work.rp (needBytes (ctxOf i)) = some ((encode i).take (needBytes (ctxOf i))) := by
    simpa using Memory.readRange_sub hread (i := 0) (k := needBytes (ctxOf i)) (by omega)
  unfold fetchRecord
  rw [if_neg (by omega), hfirst]
  dsimp only
  rw [hlen, if_neg (by omega), hread]

/-- Settles O16: what is fetched is the whole encoding, which decodes to the instruction. -/
theorem stepRunsEncoded : Obligations.StepRunsEncoded := by
  intro s i hw ho hh hin hread
  rw [step_of_openCtx hh ho, runRecordAt_of_decoded (fetchRecord_of_encode hw hin hread) (decode_of_encode hw rfl)]

/-! ### A file that is cut short, or not written -/

/-- The file ends before the record's length is known, or before its end (R47). -/
theorem fetchRecord_short (h : s.inLen.toNat < s.work.rp + needBytes c ∨
    ∃ pre, s.ibuf.readRange s.work.rp (needBytes c) = some pre ∧ s.inLen.toNat < s.work.rp + recordLen c pre) :
    fetchRecord c s = .short := by
  unfold fetchRecord
  split_ifs with hneed
  · rfl
  · obtain ⟨pre, hpre, hlen⟩ := h.resolve_left hneed
    simp only [hpre, if_pos hlen]

/-- The error of a file that ends early, in a context that a step can open. -/
theorem shortError_of_openCtx (h : openCtx s = some c) :
    shortError c = if c = .header ∨ c = .palette then .formatError else .pixelCountMismatch := by
  rcases openCtx_some h with ⟨rfl, -⟩ | ⟨rfl, -⟩ | ⟨hd, rfl, -⟩ <;> rfl

/-- Settles O35: the fetch looks for the record's first bytes, and then for the rest. -/
theorem fileEndsEarly : Obligations.FileEndsEarly := by
  intro s c hh ho hshort
  rw [step_of_openCtx hh ho, ← shortError_of_openCtx ho]
  simp only [runRecordAt, fetchRecord_short hshort]

theorem fetchRecord_unwritten_first (hin : s.work.rp + needBytes c ≤ s.inLen.toNat)
    (hread : s.ibuf.readRange s.work.rp (needBytes c) = none) : fetchRecord c s = .unwritten := by
  unfold fetchRecord
  rw [if_neg (not_lt.2 hin), hread]

theorem fetchRecord_unwritten_rest {pre : List Byte} (hpre : s.ibuf.readRange s.work.rp (needBytes c) = some pre)
    (hin : s.work.rp + needBytes c ≤ s.inLen.toNat) (hlen : s.work.rp + recordLen c pre ≤ s.inLen.toNat)
    (hread : s.ibuf.readRange s.work.rp (recordLen c pre) = none) : fetchRecord c s = .unwritten := by
  unfold fetchRecord
  rw [if_neg (not_lt.2 hin), hpre]
  dsimp only
  rw [if_neg (not_lt.2 hlen), hread]

theorem runRecordAt_of_unwritten (hf : fetchRecord c s = .unwritten) :
    runRecordAt c s = .fault (.unwritten .ibuf s.work.rp) := by
  simp only [runRecordAt, hf]

end

/-! ### A header that is refused -/

/-- The tests of `ParseHeader` that a file can fail (R210 to R215). -/
def BadHeader (B : List Byte) (v : Byte) : Prop :=
  B.length < 6 ∨ B.take 5 ≠ [0x55, 0x4C, 0x42, 0x4D, 0x50] ∨ ¬ (v = 1 ∨ v = 2 ∨ v = 3 ∨ v = 4) ∨
    (v ≠ 3 ∧ (B.length < 12 ∨ (le16 (B.getD 6 0) (B.getD 7 0)).toNat ≠ 12)) ∨
    (v = 3 ∧ (B.length < 14 ∨ ¬ legalHdr3 (le16 (B.getD 6 0) (B.getD 7 0)).toNat (B.getD 12 0) (B.getD 13 0) ∨
      B.length < (le16 (B.getD 6 0) (B.getD 7 0)).toNat))

theorem version_of_hdr12 {B rest : List Byte} {v : Byte} {w h : Half} (hd : decodeHeader B = .ok (.hdr12 v w h, rest)) :
    v = 1 ∨ v = 2 ∨ v = 4 := by
  unfold decodeHeader at hd
  split at hd
  case h_2 => cases hd
  split_ifs at hd with hm hv
  · split at hd
    · split_ifs at hd
      cases hd
      exact hv
    · cases hd
  · split at hd <;> cases hd

/-- A header of version 1, 2 or 4 that the decoder reads has passed every test. -/
theorem not_badHeader_of_hdr12 {B rest : List Byte} {v : Byte} {w h : Half}
    (hd : decodeHeader B = .ok (.hdr12 v w h, rest)) : ¬ BadHeader B (B.getD 5 0) := by
  have hv := version_of_hdr12 hd
  obtain rfl := encode_of_decodeHeader hd
  have hlen : (encode (.hdr12 v w h) ++ rest).length = 12 + rest.length := by
    rw [List.length_append, encode_hdr12_length]
  have hfield : le16 ((encode (.hdr12 v w h) ++ rest).getD 6 0) ((encode (.hdr12 v w h) ++ rest).getD 7 0) = 12 :=
    le16_of_le16Bytes 12
  rw [show (encode (.hdr12 v w h) ++ rest).getD 5 0 = v from rfl]
  rintro (hshort | hmagic | hversion | ⟨-, hshort | hheader⟩ | ⟨h3, -⟩)
  · omega
  · exact hmagic rfl
  · tauto
  · omega
  · exact hheader (congrArg BitVec.toNat hfield)
  · rw [h3] at hv
    simp at hv

/-- A version 3 header that the decoder reads can fail the tests of depth, flag and length only (R214, R215). -/
theorem badHeader_of_hdr3 {B rest : List Byte} {hl w h : Half} {d f : Byte}
    (hd : decodeHeader B = .ok (.hdr3 hl w h d f, rest)) (hbad : BadHeader B (B.getD 5 0)) :
    ¬ legalHdr3 hl.toNat d f ∨ B.length < hl.toNat := by
  obtain rfl := encode_of_decodeHeader hd
  have hlen : (encode (.hdr3 hl w h d f) ++ rest).length = 14 + rest.length := by
    rw [List.length_append, encode_hdr3_length]
  have hfield : le16 ((encode (.hdr3 hl w h d f) ++ rest).getD 6 0) ((encode (.hdr3 hl w h d f) ++ rest).getD 7 0) = hl :=
    le16_of_le16Bytes hl
  rw [BadHeader, hfield] at hbad
  rcases hbad with hshort | hmagic | hversion | ⟨h3, -⟩ | ⟨-, hshort | hrest⟩
  · omega
  · exact absurd rfl hmagic
  · exact absurd (.inr (.inr (.inl rfl))) hversion
  · exact absurd rfl h3
  · omega
  · exact hrest

/-- Whatever the decoder answers for a bad header, the header step raises `FormatError` (R210 to R215). -/
theorem headerOutcome_of_badHeader {s : State} {B : List Byte} (hj : s.job = .decHeader) (hlen : B.length = s.inLen.toNat)
    (hbad : BadHeader B (B.getD 5 0)) :
    recordOutcome .header s (decodeHeader B) = .next (raise .formatError s) := by
  cases hd : decodeHeader B with
  | error e => cases e <;> rfl
  | ok x =>
    obtain ⟨i, rest⟩ := x
    have hctx := decode_ctx (c := .header) ((decode_header B).trans hd)
    cases i
    case hdr12 => exact absurd hbad (not_badHeader_of_hdr12 hd)
    case hdr3 hl w h d f =>
      have hparse : parse3 hl w h d f s = .error (.err .formatError) := if_pos (hlen ▸ badHeader_of_hdr3 hd hbad)
      rw [recordOutcome, exec_hdr3_of_job hj, hparse, settle_err]
    all_goals cases hctx

/-- Settles O34: an `IN_LEN` that does not fit stops the step before it reads, and a bad header is refused by the decoder
or by `HDR3`. -/
theorem headerErrors : Obligations.HeaderErrors := by
  refine ⟨fun s hh hj hlong => ?_, fun s B v hh ho hrp hB hv hbad => ?_⟩
  · obtain ⟨c, hc, hlt⟩ := hlong
    rw [step_of_no_host hh, engineStep, hj]
    exact if_neg (by rw [hc, fits_some]; omega)
  · subst hv
    obtain ⟨-, hj, -⟩ | ⟨hc, -⟩ | ⟨hd, hc, -⟩ := openCtx_some ho
    case inr.inl | inr.inr => cases hc
    rw [step_of_openCtx hh ho, runRecordAt_of_file hB, hrp, List.drop_zero, decode_header]
    exact headerOutcome_of_badHeader hj (Memory.readRange_length hB) hbad

end Sys2Proof.Machine
end

section
/-! A palette entry of the header that completes. -/

namespace Sys2Proof.Machine

/-- Settles O28: the entry is written, and the next phase is the next entry or the stream that opens. -/
theorem palResult : Obligations.PalResult := by
  intro s r g b hd i hj hopen
  have hpal : ∀ j, (s.pal.write i ⟨r, g, b⟩).read j = if j = i then some ⟨r, g, b⟩ else s.pal.read j := fun j =>
    Memory.read_write s.pal i j ⟨r, g, b⟩
  have hload : loadEntry hd i ⟨r, g, b⟩ s =
      .ok (setJob (if i + 1 < hd.k then .decPalette hd (i + 1) else .decStream hd)
        (skipBytes 3 (writePal i ⟨r, g, b⟩ s))) := by
    unfold loadEntry
    dsimp only
    split_ifs with hmore
    · rfl
    · exact beginStream_of_opens (s := skipBytes 3 (writePal i ⟨r, g, b⟩ s)) (hopen (not_lt.1 hmore))
  exact ⟨_, (exec_pal_of_job hj r g b).trans (congrArg (settle s) hload), by constructor <;> rfl, rfl, rfl, rfl, hpal,
    fun _ => rfl, fun _ => rfl, fun _ => rfl, rfl, rfl⟩

end Sys2Proof.Machine
end

section
/-! Reads of cells that nothing has written, by every command (R56, R297; log 8). -/

namespace Sys2Proof.Machine

section
variable {s : State}

theorem readPixel_unwritten {i : Nat} (h : s.pmem.read i = none) :
    readPixel i s = .error (.fault (.unwritten .pmem i)) := by
  simp only [readPixel, h]

theorem paletteLookup_unwritten {i : Nat} (hi : i < s.palSize.toNat) (h : s.pal.read i = none) :
    paletteLookup i s = .error (.fault (.unwritten .pal i)) := by
  unfold paletteLookup
  rw [if_neg (not_le.2 hi), h]

/-- The lookups stop at the first entry that nothing wrote, if every index before it is good (R225). -/
theorem paletteLookups_unwritten {good : List Nat} {bad : Nat}
    (hgood : ∀ j ∈ good, j < s.palSize.toNat ∧ s.pal.read j ≠ none) (hbad : bad < s.palSize.toNat)
    (hread : s.pal.read bad = none) (more : List Nat) :
    paletteLookups (good ++ bad :: more) s = .error (.fault (.unwritten .pal bad)) := by
  induction good with
  | nil => rw [List.nil_append, paletteLookups, paletteLookup_unwritten hbad hread]
  | cons j good ih =>
    obtain ⟨⟨hj, hentry⟩, hrest⟩ := List.forall_mem_cons.1 hgood
    obtain ⟨p, hp⟩ := Option.ne_none_iff_exists'.1 hentry
    rw [List.cons_append, paletteLookups, paletteLookup_ok.2 ⟨hj, hp⟩, ih hrest]

/-- The scans of R108 and R110 stop at an entry that nothing wrote. -/
theorem paletteScan_unwritten {p : Pixel} {j : Nat} (hreach : ScanReaches j p s) (h : s.pal.read j = none) :
    paletteScan s.pal p 0 s.palSize.toNat = .error (.fault (.unwritten .pal j)) := by
  obtain ⟨hj, hbefore⟩ := hreach
  simpa using (paletteScan_stop (k := 0) hj (by simpa using hbefore)).1 (by simpa using h)

theorem paletteStep_unwritten_pixel {kind : RecordKind} {i : Nat} (hi : i < pixelCount s) (h : s.pmem.read i = none) :
    paletteStep kind i s = .error (.fault (.unwritten .pmem i)) := by
  unfold paletteStep
  rw [if_neg (not_le.2 hi), readPixel_unwritten h]

theorem paletteStep_unwritten_entry {kind : RecordKind} {i j : Nat} {p : Pixel} (hi : i < pixelCount s)
    (hp : s.pmem.read i = some p) (hreach : ScanReaches j p s) (h : s.pal.read j = none) :
    paletteStep kind i s = .error (.fault (.unwritten .pal j)) := by
  unfold paletteStep
  rw [if_neg (not_le.2 hi), readPixel_ok.2 hp]
  simp only [paletteScan_unwritten hreach h]

theorem paletteOutStep_unwritten {kind : RecordKind} {i : Nat} (huse : usesPalette s.version s.depth)
    (hi : i < s.palSize.toNat) (h : s.pal.read i = none) :
    paletteOutStep kind i s = .error (.fault (.unwritten .pal i)) := by
  unfold paletteOutStep
  rw [if_pos (show i < entryCount s by rw [entryCount, if_pos huse]; exact hi), h]

theorem encodeStep_unwritten_pixel {kind : RecordKind} (hp : s.work.pix < pixelCount s)
    (h : s.pmem.read s.work.pix = none) : encodeStep kind s = .error (.fault (.unwritten .pmem s.work.pix)) := by
  unfold encodeStep
  rw [if_pos hp, readPixel_unwritten h]

/-- The indexer's fault stops the pixel (R110). -/
theorem encodePixel_unwritten_entry {kind : RecordKind} {j : Nat} {p : Pixel} (hk : indexed kind = true)
    (hreach : ScanReaches j p s) (h : s.pal.read j = none) :
    encodePixel kind p s = .error (.fault (.unwritten .pal j)) :=
  encodePixel_of_index_error hk (by simp only [paletteIndex, paletteScan_unwritten hreach h])

end

theorem indexed_of_mem {kind : RecordKind} (h : kind ∈ [RecordKind.idx, .runi, .pack1, .pack2, .pack4]) :
    indexed kind = true := by
  simp only [List.mem_cons, List.not_mem_nil, or_false] at h
  rcases h with rfl | rfl | rfl | rfl | rfl <;> rfl

/-- Settles O42: each read of a command stops at the unwritten cell, and the step with it. -/
theorem unwrittenCells : Obligations.UnwrittenCells := by
  intro s hh
  have hstep := step_of_no_host hh
  refine ⟨fun c ho hin hread => ?_, fun c pre ho hpre hin hlen hread => ?_, fun kind i hj hi hread => ?_,
    fun kind i p j hj hi hp hreach hread => ?_, fun kind i hj huse hi hread => ?_,
    fun kind p j hj hk hpix hp hreach hread => ?_, fun kind hj hpix hread => ?_, ?_, ?_,
    fun h i kind d lanes good bad more hi hs htaken hgood hbad hread => ?_⟩
  · rw [step_of_openCtx hh ho, runRecordAt_of_unwritten (fetchRecord_unwritten_first hin hread)]
  · rw [step_of_openCtx hh ho, runRecordAt_of_unwritten (fetchRecord_unwritten_rest hpre hin hlen hread)]
  · rw [hstep, engineStep, hj]
    simp only [paletteStep_unwritten_pixel hi hread, settle_fault]
  · rw [hstep, engineStep, hj]
    simp only [paletteStep_unwritten_entry hi hp hreach hread, settle_fault]
  · rw [hstep, engineStep, hj]
    simp only [paletteOutStep_unwritten huse hi hread, settle_fault]
  · rw [step_encStream hh hj hpix hp, encodePixel_unwritten_entry (indexed_of_mem hk) hreach hread]
    rfl
  · rw [hstep, engineStep, hj]
    simp only [encodeStep_unwritten_pixel hpix hread, settle_fault]
  · rintro h i ⟨hj, hk, hp⟩ hi hread
    refine (inStream_of_job hj hk hp).trans ?_
    rw [paletteLookup_unwritten hi hread, settle_fault]
  · rintro h n i ⟨hj, hk, hp⟩ hn hi hread
    refine (inStream_of_job hj hk hp).trans ?_
    rw [paletteLookup_unwritten hi hread, runRecord_bad_value hn, settle_fault]
  · rw [exec_pack hi hs, packRecord, htaken, paletteLookups_unwritten hgood hbad hread, settle_fault]

end Sys2Proof.Machine
end

section
/-! The host's memory ports, outside `BUSY` (R52, R53). -/

namespace Sys2Proof.Machine

section
variable {s : State} {op : HostOp} {ops : List HostOp}

/-- Outside `BUSY` an access of the host does what the port does, at once. -/
theorem step_of_idle_access (hb : s.status ≠ .busy) (hh : s.host = op :: ops) (ht : op ≠ .tick) (hw : op ≠ .wait) :
    step s = portAccess op (setHost ops s) := by
  rw [step_of_access hh ht hw, hostAccess_of_not_busy (s := setHost ops s) hb]

/-- A written cell within the capacity is answered, and nothing else happens (R53). -/
theorem readCell_ok {α : Type} {m : Space} {mem : Memory α} {cap : Option Nat} {resp : α → Resp} {a : Nat} {v : α}
    (hfit : fits (a + 1) cap = true) (hread : mem.read a = some v) :
    readCell m mem cap resp a s = .next (answer (resp v) s) := by
  simp only [readCell, hfit, hread, Bool.not_true, Bool.false_eq_true, if_false]

theorem portWriteIbuf_ok {a : Nat} {v : Byte} (hfit : fits (a + 1) s.caps.ibuf = true) :
    portWriteIbuf a v s = .next (answer .ack (writeByte a v s)) := if_pos hfit

theorem portPixelRead_inside {x y : Nat} {p : Pixel} (hin : inImage x y s)
    (hfit : fits (pixelIndex x y s + 1) s.caps.pmem = true) (hread : s.pmem.read (pixelIndex x y s) = some p) :
    portPixelRead x y s = .next (answer (.pixel p) s) := by
  rw [portPixelRead, if_pos hin, readCell_ok hfit hread]

theorem portPixelWrite_inside {x y : Nat} {p : Pixel} (hin : inImage x y s)
    (hfit : fits (pixelIndex x y s + 1) s.caps.pmem = true) :
    portPixelWrite x y p s = .next (answer .ack (writePixel (pixelIndex x y s) p s)) := by
  rw [portPixelWrite, if_pos hin, if_pos hfit]

theorem portPixelRead_outside {x y : Nat} (hout : ¬ inImage x y s) :
    portPixelRead x y s = .next (answer (.busError .indexOutOfBounds) s) := if_neg hout

theorem portPixelWrite_outside {x y : Nat} {p : Pixel} (hout : ¬ inImage x y s) :
    portPixelWrite x y p s = .next (answer (.busError .indexOutOfBounds) s) := if_neg hout

end

/-- Settles O46, port by port. -/
theorem pixelPort : Obligations.PixelPort := by
  refine ⟨fun s a v p ops hb => ⟨fun hfit => ⟨fun hh => ?_, fun hh hread => ?_⟩, fun hfit hh hread => ?_,
    fun ha hh hread => ?_⟩, fun s x y p ops hb => ⟨fun hx hy hfit => ⟨fun hh hread => ?_, fun hh => ?_⟩, ?_⟩⟩
  · refine ⟨_, (step_of_idle_access hb hh (by simp) (by simp)).trans (portWriteIbuf_ok (s := setHost ops s) hfit), rfl,
      fun k => Memory.read_write s.ibuf a k v⟩
  · exact (step_of_idle_access hb hh (by simp) (by simp)).trans (readCell_ok hfit hread)
  · exact (step_of_idle_access hb hh (by simp) (by simp)).trans (readCell_ok hfit hread)
  · exact (step_of_idle_access hb hh (by simp) (by simp)).trans (readCell_ok ((fits_some _ _).2 ha) hread)
  · exact (step_of_idle_access hb hh (by simp) (by simp)).trans
      (portPixelRead_inside (s := setHost ops s) ⟨hx, hy⟩ hfit hread)
  · exact ⟨_, (step_of_idle_access hb hh (by simp) (by simp)).trans
      (portPixelWrite_inside (s := setHost ops s) ⟨hx, hy⟩ hfit), rfl,
      fun i => Memory.read_write s.pmem (x + y * s.width.toNat) i p⟩
  · rintro hout (hh | hh)
    · exact (step_of_idle_access hb hh (by simp) (by simp)).trans (portPixelRead_outside (s := setHost ops s) hout)
    · exact (step_of_idle_access hb hh (by simp) (by simp)).trans (portPixelWrite_outside (s := setHost ops s) hout)

end Sys2Proof.Machine
end
